-- ==== Sys2Proof/Word.lean ====
section
/-! DEFINITION. The word types of CORE (00_scope.md R8, R9): a bit vector where the spec has one, and nothing else. -/

namespace Sys2Proof

/-- An operand, status or address word: `REG_BITS` = `ADDR_BITS` = 64 (00_scope.md R8). -/
abbrev Word := BitVec 64

/-- One byte of memory, and one command byte (10_state.md R37, 30_encoding.md R80). -/
abbrev Byte := BitVec 8

/-- A nibble code, one field of a command byte, a response status (30_encoding.md R70, R80, R88). -/
abbrev Nibble := BitVec 4

end Sys2Proof
end

