-- ==== Sys2Proof/Config.lean ====
section
/-! DEFINITION. The parameters of 00_scope.md R8 and the free value of the model. `REG_BITS` and `ADDR_BITS` are the
width of `Word`; `BYTE_ORDER` is little-endian, `STORE_MODE` is `EXACT` and `NB_CONTEXTS` is 1 by the shape of the
model (R51, R110, R180); the rest are the constants below. -/

namespace Sys2Proof.Config

/-- Addresses are `0 .. 2^64 - 1` (R8 `ADDR_BITS`, 10_state.md R37): the first number that is no address. -/
def addrLimit : Nat := 2 ^ 64

/-- `NMAX`, the largest count that SCAN and NBNEW accept (R8). -/
def nmax : Nat := 2 ^ 28 - 1

/-- `ESC_BYTES`, the effective width of nibble code 0 (R8). -/
def escBytes : Nat := 16

/-- `PTR_BYTES`, the width of a pointer value (R8). -/
def ptrBytes : Nat := 8

/-- `MAX_INT_BYTES`, the largest byte width of an integer type (R8). -/
def maxIntBytes : Nat := 8

/-- What a byte of memory that nothing has written reads as. DESIGN CHOICE (unsafe): the spec says only "the byte the
memory held at the start" (20_memory.md R54); notes/assumptions/4.md. -/
def unlistedByte : Byte := 0

/-- The free value: the spec's "any value (64 bits, drawn per execution)" (93_implementation_defined.md U3, U11,
U13), at draw number `n`. It has no body, so nothing can be proved of it; notes/assumptions/7.md. -/
opaque anyWord (n : Nat) : Word

end Sys2Proof.Config
end

