-- ==== Sys2Proof/Syntax.lean ====
section
/-! DEFINITION. The commands of CORE, one constructor per row of spec/opcode_table.json, and the format CMD8 they are
written in. A command has no operand field: every operand is in a fixed register (30_encoding.md R80, R87). -/

namespace Sys2Proof

/-- The 37 legal commands (30_encoding.md R83). -/
inductive Instr where
  /-- NPMK, byte 0x10: make a pair byte (R101). -/
  | npmk
  /-- NPFST, byte 0x20: first code of a pair byte (R102). -/
  | npfst
  /-- NPSND, byte 0x30: second code of a pair byte (R103). -/
  | npsnd
  /-- PKU.U8, byte 0x40: pack an unsigned integer (R112). -/
  | pkuU8
  /-- PKU.U16, byte 0x41: pack an unsigned integer (R113). -/
  | pkuU16
  /-- PKU.U32, byte 0x42: pack an unsigned integer (R114). -/
  | pkuU32
  /-- PKU.U64, byte 0x43: pack an unsigned integer (R115). -/
  | pkuU64
  /-- PKS.I32, byte 0x56: pack a signed integer (R118). -/
  | pksI32
  /-- PKS.I64, byte 0x57: pack a signed integer (R119). -/
  | pksI64
  /-- PKF.F32, byte 0x6A: pack a float pattern (R121). -/
  | pkfF32
  /-- PKF.F64, byte 0x6B: pack a float pattern (R122). -/
  | pkfF64
  /-- PKP, byte 0x7F: pack a pointer (R123). -/
  | pkp
  /-- SCAN, byte 0x80: size of a value stream (R141). -/
  | scan
  /-- UPI.U8, byte 0x90: unpack an integer (R153). -/
  | upiU8
  /-- UPI.U16, byte 0x91: unpack an integer (R154). -/
  | upiU16
  /-- UPI.U32, byte 0x92: unpack an integer (R155). -/
  | upiU32
  /-- UPI.U64, byte 0x93: unpack an integer (R156). -/
  | upiU64
  /-- UPI.I8, byte 0x94: unpack an integer (R157). -/
  | upiI8
  /-- UPI.I16, byte 0x95: unpack an integer (R158). -/
  | upiI16
  /-- UPI.I32, byte 0x96: unpack an integer (R159). -/
  | upiI32
  /-- UPI.I64, byte 0x97: unpack an integer (R160). -/
  | upiI64
  /-- UPF.F32, byte 0xAA: unpack a float pattern (R164). -/
  | upfF32
  /-- UPF.F64, byte 0xAB: unpack a float pattern (R165). -/
  | upfF64
  /-- UPP, byte 0xBF: unpack a pointer (R161). -/
  | upp
  /-- NBNEW, byte 0xC0: construct the stream cursor (R183). -/
  | nbnew
  /-- NBNXT.U8, byte 0xD0: get the next value (R191). -/
  | nbnxtU8
  /-- NBNXT.U16, byte 0xD1: get the next value (R192). -/
  | nbnxtU16
  /-- NBNXT.U32, byte 0xD2: get the next value (R193). -/
  | nbnxtU32
  /-- NBNXT.U64, byte 0xD3: get the next value (R194). -/
  | nbnxtU64
  /-- NBNXT.I8, byte 0xD4: get the next value (R195). -/
  | nbnxtI8
  /-- NBNXT.I16, byte 0xD5: get the next value (R196). -/
  | nbnxtI16
  /-- NBNXT.I32, byte 0xD6: get the next value (R197). -/
  | nbnxtI32
  /-- NBNXT.I64, byte 0xD7: get the next value (R198). -/
  | nbnxtI64
  /-- NBNXT.F32, byte 0xDA: get the next value (R199). -/
  | nbnxtF32
  /-- NBNXT.F64, byte 0xDB: get the next value (R200). -/
  | nbnxtF64
  /-- NBNXT.PTR, byte 0xDF: get the next value (R201). -/
  | nbnxtPtr
  /-- NBEND, byte 0xE0: end of the packed arguments (R202). -/
  | nbend
  deriving DecidableEq, Repr

/-- The format CMD8 of a command byte: `op` in bits 7:4, the type tag `ty` in bits 3:0 (R80). -/
structure Cmd8 where
  op : Nibble
  ty : Nibble
  deriving DecidableEq, Repr

/-- The eleven value types a tag can name (R82). -/
inductive TypeTag where
  | u8 | u16 | u32 | u64
  | i8 | i16 | i32 | i64
  | f32 | f64
  | ptr
  deriving DecidableEq, Repr

end Sys2Proof
end

