-- ==== Sys2Proof/WellFormed.lean ====
section
/-! DEFINITION. Which command fields are legal (30_encoding.md R81, R84). R84 gives three ways to be illegal; each is
one check here. -/

namespace Sys2Proof

/-- Check 1: `op` is not 0x0 or 0xF, which no command has (R81, R84). -/
def Cmd8.opLegal (c : Cmd8) : Bool := c.op != 0x0 && c.op != 0xF

/-- The operations that take a type tag (R81, column "takes ty?"). -/
def Cmd8.takesType (c : Cmd8) : Bool :=
  [0x4, 0x5, 0x6, 0x7, 0x9, 0xA, 0xB, 0xD].contains c.op

/-- Check 2: an operation that takes no type has `ty = 0` (R80, R84). -/
def Cmd8.untypedTagZero (c : Cmd8) : Bool := c.takesType || c.ty == 0x0

/-- The tags R81 lists for an operation, by their R82 values. -/
def Cmd8.tagsOf (op : Nibble) : List Nibble :=
  if op = 0x4 then [0x0, 0x1, 0x2, 0x3]
  else if op = 0x5 then [0x6, 0x7]
  else if op = 0x6 then [0xA, 0xB]
  else if op = 0x7 then [0xF]
  else if op = 0x9 then [0x0, 0x1, 0x2, 0x3, 0x4, 0x5, 0x6, 0x7]
  else if op = 0xA then [0xA, 0xB]
  else if op = 0xB then [0xF]
  else if op = 0xD then [0x0, 0x1, 0x2, 0x3, 0x4, 0x5, 0x6, 0x7, 0xA, 0xB, 0xF]
  else []

/-- Check 3: the tag of a typed operation is one of its list (R81, R84). -/
def Cmd8.typedTagListed (c : Cmd8) : Bool := !c.takesType || (Cmd8.tagsOf c.op).contains c.ty

/-- The fields name one of the 37 commands. -/
def Cmd8.wellFormed (c : Cmd8) : Bool := c.opLegal && c.untypedTagZero && c.typedTagListed

/-- A term of `Instr` has no operand field, so there is nothing in it to check (R80: "no immediate field, no
register-number field and no addressing-mode field"); the checks are on the fields of a byte, `Cmd8.wellFormed`. -/
def Instr.wellFormed (_ : Instr) : Bool := true

end Sys2Proof
end

