-- ==== Sys2Proof/Decode.lean ====
section
/-! DEFINITION. The decoder of a command byte, from the op and tag tables (30_encoding.md R80 to R82), total and
rejecting by name (R84); then the encoder, from the table of command bytes (R83). -/

namespace Sys2Proof

/-- Why a byte is illegal: the three ways of R84. -/
inductive DecodeError where
  /-- `op` is 0x0 or 0xF. -/
  | illegalOp (op : Nibble)
  /-- An operation that takes no type, with `ty` not 0. -/
  | tagOnUntyped (op ty : Nibble)
  /-- A typed operation with a tag outside its list, reserved tags included. -/
  | tagNotListed (op ty : Nibble)
  deriving DecidableEq, Repr

/-- The fields of a command byte: `op = cmd[7:4]`, `ty = cmd[3:0]` (R80). -/
def Cmd8.ofByte (b : Byte) : Cmd8 := { op := b.extractLsb' 4 4, ty := b.extractLsb' 0 4 }

/-- The type a tag names; `none` for the five reserved tags (R82). -/
def TypeTag.ofBits (ty : Nibble) : Option TypeTag :=
  match ty.toNat with
  | 0x0 => some .u8
  | 0x1 => some .u16
  | 0x2 => some .u32
  | 0x3 => some .u64
  | 0x4 => some .i8
  | 0x5 => some .i16
  | 0x6 => some .i32
  | 0x7 => some .i64
  | 0xA => some .f32
  | 0xB => some .f64
  | 0xF => some .ptr
  | _ => none

/-- An operation that takes no type: `ty` must be 0 (R80). -/
def decodeUntyped (c : Cmd8) (i : Instr) : Except DecodeError Instr :=
  if c.ty = 0 then .ok i else .error (.tagOnUntyped c.op c.ty)

/-- An operation that takes a type: `sel` is its row of R81, `none` where the type is not in its list. -/
def decodeTyped (c : Cmd8) (sel : TypeTag → Option Instr) : Except DecodeError Instr :=
  match (TypeTag.ofBits c.ty).bind sel with
  | some i => .ok i
  | none => .error (.tagNotListed c.op c.ty)

/-- PKU takes U8, U16, U32, U64 (R81). -/
def pkuOf : TypeTag → Option Instr
  | .u8 => some .pkuU8
  | .u16 => some .pkuU16
  | .u32 => some .pkuU32
  | .u64 => some .pkuU64
  | _ => none

/-- PKS takes I32, I64 (R81). -/
def pksOf : TypeTag → Option Instr
  | .i32 => some .pksI32
  | .i64 => some .pksI64
  | _ => none

/-- PKF takes F32, F64 (R81). -/
def pkfOf : TypeTag → Option Instr
  | .f32 => some .pkfF32
  | .f64 => some .pkfF64
  | _ => none

/-- PKP takes PTR (R81). -/
def pkpOf : TypeTag → Option Instr
  | .ptr => some .pkp
  | _ => none

/-- UPI takes the eight integer types (R81). -/
def upiOf : TypeTag → Option Instr
  | .u8 => some .upiU8
  | .u16 => some .upiU16
  | .u32 => some .upiU32
  | .u64 => some .upiU64
  | .i8 => some .upiI8
  | .i16 => some .upiI16
  | .i32 => some .upiI32
  | .i64 => some .upiI64
  | _ => none

/-- UPF takes F32, F64 (R81). -/
def upfOf : TypeTag → Option Instr
  | .f32 => some .upfF32
  | .f64 => some .upfF64
  | _ => none

/-- UPP takes PTR (R81). -/
def uppOf : TypeTag → Option Instr
  | .ptr => some .upp
  | _ => none

/-- NBNXT takes all eleven types (R81). -/
def nbnxtOf : TypeTag → Option Instr
  | .u8 => some .nbnxtU8
  | .u16 => some .nbnxtU16
  | .u32 => some .nbnxtU32
  | .u64 => some .nbnxtU64
  | .i8 => some .nbnxtI8
  | .i16 => some .nbnxtI16
  | .i32 => some .nbnxtI32
  | .i64 => some .nbnxtI64
  | .f32 => some .nbnxtF32
  | .f64 => some .nbnxtF64
  | .ptr => some .nbnxtPtr

/-- The command whose fields are `c` (R81). -/
def decodeFields (c : Cmd8) : Except DecodeError Instr :=
  match c.op.toNat with
  | 0x1 => decodeUntyped c .npmk
  | 0x2 => decodeUntyped c .npfst
  | 0x3 => decodeUntyped c .npsnd
  | 0x4 => decodeTyped c pkuOf
  | 0x5 => decodeTyped c pksOf
  | 0x6 => decodeTyped c pkfOf
  | 0x7 => decodeTyped c pkpOf
  | 0x8 => decodeUntyped c .scan
  | 0x9 => decodeTyped c upiOf
  | 0xA => decodeTyped c upfOf
  | 0xB => decodeTyped c uppOf
  | 0xC => decodeUntyped c .nbnew
  | 0xD => decodeTyped c nbnxtOf
  | 0xE => decodeUntyped c .nbend
  | _ => .error (.illegalOp c.op)

/-- The command a byte stands for, or the reason it is illegal (R80 to R84). -/
def decode (b : Byte) : Except DecodeError Instr := decodeFields (Cmd8.ofByte b)

/-- The command byte of each command (R83). -/
def encode : Instr → Byte
  | .npmk => 0x10
  | .npfst => 0x20
  | .npsnd => 0x30
  | .pkuU8 => 0x40
  | .pkuU16 => 0x41
  | .pkuU32 => 0x42
  | .pkuU64 => 0x43
  | .pksI32 => 0x56
  | .pksI64 => 0x57
  | .pkfF32 => 0x6A
  | .pkfF64 => 0x6B
  | .pkp => 0x7F
  | .scan => 0x80
  | .upiU8 => 0x90
  | .upiU16 => 0x91
  | .upiU32 => 0x92
  | .upiU64 => 0x93
  | .upiI8 => 0x94
  | .upiI16 => 0x95
  | .upiI32 => 0x96
  | .upiI64 => 0x97
  | .upfF32 => 0xAA
  | .upfF64 => 0xAB
  | .upp => 0xBF
  | .nbnew => 0xC0
  | .nbnxtU8 => 0xD0
  | .nbnxtU16 => 0xD1
  | .nbnxtU32 => 0xD2
  | .nbnxtU64 => 0xD3
  | .nbnxtI8 => 0xD4
  | .nbnxtI16 => 0xD5
  | .nbnxtI32 => 0xD6
  | .nbnxtI64 => 0xD7
  | .nbnxtF32 => 0xDA
  | .nbnxtF64 => 0xDB
  | .nbnxtPtr => 0xDF
  | .nbend => 0xE0

/-- The command read from the table's numbering of a word: one byte, bit 0 the least significant. -/
def commandByte (nbits w : Nat) : Byte := BitVec.ofNat 8 (w % 2 ^ nbits)

/-- What the decoder reads from the `nbits` bits `w` of a table row. -/
def decodeTableWord (nbits w : Nat) : Option Instr :=
  match decode (commandByte nbits w) with
  | .ok i => some i
  | .error _ => none

end Sys2Proof
end

