-- ==== Sys2Proof/Machine/State.lean ====
section
/-! DEFINITION. The state of CORE as plain data: every register of 10_state.md R22 and R27, memory (R37), the answer of
the last host move (R21), and the model's own script and draw counter; State.reset; the reasons a step can stop. -/

namespace Sys2Proof.Machine

/-- The causes of a CORE fault (60_exceptions.md R211). A CORE fault is an exception of the machine, taken by
`takeFault`; it is not a stop of the model. -/
inductive Cause where
  /-- The byte is none of the 37 (R84). -/
  | illegalCmd
  /-- `CPOS > CLEN` or `CBASE + CLEN > 2^64` (20_memory.md R56). -/
  | badCursor
  /-- The bytes needed do not lie in the window (R59) or before `NB_END` (44_stream_cursor.md R186). -/
  | overrun
  /-- `CNT > NMAX` (42_size_scanner.md R141). -/
  | badCount
  /-- Nibble code 0 under an integer or pointer type (43_decoder.md R151). -/
  | reservedCode
  /-- `NB_VAL >= NB_END` at NBNXT (44_stream_cursor.md R187). -/
  | endOfValues
  /-- No stream cursor has been constructed (44_stream_cursor.md R181). -/
  | nbInactive
  deriving DecidableEq, Repr

/-- Why the model stops. -/
inductive Fault where
  /-- Raised by a memory access at or above address 2^64, which does not exist (10_state.md R37). Safe: no state
  with the invariant of R34 makes such an access (20_memory.md R57); notes/assumptions/9.md. -/
  | noSuchAddress
  deriving DecidableEq, Repr

/-- Why the model refuses. -/
inductive Refusal where
  /-- Raised by `exec` for a command that has no meaning yet. Safe. No command of this model is left so. -/
  | notModelled (mnemonic : String)
  deriving DecidableEq, Repr

/-- Why a command ends before its last line: it raises a CORE fault (00_scope.md R13), or the model stops. -/
inductive Abort where
  | raise (c : Cause)
  | stop (f : Fault)
  deriving DecidableEq, Repr

/-- The moves of the host (10_state.md R21). -/
inductive HostMove where
  /-- `RegWrite(i, v)`, `i` in 0..6. -/
  | regWrite (i : Fin 7) (v : Word)
  /-- `RegRead(i)`, `i` in 0..6. -/
  | regRead (i : Fin 7)
  /-- `CsrRead(j)`, any `j`. -/
  | csrRead (j : Nat)
  /-- `Issue(cmd)`. -/
  | issue (cmd : Byte)
  /-- `HostMemRead(a)`. -/
  | memRead (a : Word)
  /-- `HostMemWrite(a, b)`. -/
  | memWrite (a : Word) (b : Byte)
  /-- `Reset`. -/
  | reset
  deriving DecidableEq, Repr

/-- What a host move returns (R21): nothing, the 4-bit response status of `Issue` (30_encoding.md R88), a register, or
a byte of memory. -/
inductive Reply where
  | none
  | status (st : Nibble)
  | word (v : Word)
  | byte (b : Byte)
  deriving DecidableEq, Repr

/-- Memory: the bytes that differ from `Config.unlistedByte`, by strictly rising address (notes/assumptions/4.md). -/
abbrev Memory := List Host.Cell

/-- The state of CORE between two host moves. -/
structure State where
  /-- `x[0]`, value operand or result (R22). -/
  val : Word
  /-- `x[1]`, nibble code (R22). -/
  code : Word
  /-- `x[2]`, cursor base (R22, R55). -/
  cbase : Word
  /-- `x[3]`, cursor length (R22, R55). -/
  clen : Word
  /-- `x[4]`, cursor position (R22, R55). -/
  cpos : Word
  /-- `x[5]`, the count N (R22). -/
  cnt : Word
  /-- `x[6]`, second code of NPMK (R22). -/
  aux : Word
  /-- Status register 0, fault status (R28). -/
  fstat : Word
  /-- Status register 1, stream cursor control (R29). -/
  nbCtl : Word
  /-- Status register 2 (R30). -/
  nbBase : Word
  /-- Status register 3 (R31). -/
  nbPair : Word
  /-- Status register 4 (R32). -/
  nbVal : Word
  /-- Status register 5 (R33). -/
  nbEnd : Word
  /-- The one address space (R37). -/
  mem : Memory
  /-- What the last host move returned (R21, R88). -/
  reply : Reply
  /-- The model's own: the host moves still to come (notes/assumptions/5.md). -/
  script : List HostMove
  /-- The model's own: how many free values have been drawn (notes/assumptions/7.md). -/
  draws : Nat
  deriving DecidableEq, Repr

/-- The machine right after reset (10_state.md R41): FSTAT and NB_CTL are 0 and memory lists nothing. The operand
registers and NB_BASE, NB_PAIR, NB_VAL, NB_END are unspecified there; 0 is this model's DESIGN CHOICE (unsafe:
notes/assumptions/1.md and 2.md). The `Reset` move of a running machine is `State.hostReset`, which draws them. -/
def State.reset : State :=
  { val := 0, code := 0, cbase := 0, clen := 0, cpos := 0, cnt := 0, aux := 0,
    fstat := 0, nbCtl := 0, nbBase := 0, nbPair := 0, nbVal := 0, nbEnd := 0,
    mem := [], reply := .none, script := [], draws := 0 }

end Sys2Proof.Machine
end

