-- ==== Sys2Proof/Machine/Flags.lean ====
section
/-! DEFINITION. The status bits. CORE has no condition codes (10_state.md R35): its only status bits are those of FSTAT
(R28) and NB_CTL (R29). A register is always written whole, its reserved bits 0 (notes/assumptions/10.md). -/

namespace Sys2Proof.Machine

/-- The cause codes (60_exceptions.md R211). -/
def causeCode : Cause → Nibble
  | .illegalCmd => 1
  | .badCursor => 2
  | .overrun => 3
  | .badCount => 4
  | .reservedCode => 5
  | .endOfValues => 6
  | .nbInactive => 7

/-- Response status OK (30_encoding.md R88). -/
def statusOk : Nibble := 0x0

/-- Response status HALTED (R88). -/
def statusHalted : Nibble := 0xF

/-- FSTAT after fault entry: `F = 1` in bit 0, CAUSE in bits 7:4, CMD in bits 15:8, the rest 0 (R28, R214). -/
def fstatWord (c : Cause) (cmd : Byte) : Word := (cmd ++ (causeCode c ++ (1 : Nibble))).setWidth 64

/-- `FSTAT.F` (R28): CORE is halted (60_exceptions.md R215). It is also the output line `fault` (R218). -/
def State.halted (s : State) : Bool := s.fstat.getLsbD 0

/-- `FSTAT.CAUSE` (R28). -/
def State.fstatCause (s : State) : Nibble := s.fstat.extractLsb' 4 4

/-- `FSTAT.CMD` (R28). -/
def State.fstatCmd (s : State) : Byte := s.fstat.extractLsb' 8 8

/-- The output signal `fault`, equal to `FSTAT.F` at all times (R218). -/
def State.faultLine (s : State) : Bool := s.halted

/-- NB_CTL with the given ACT (bit 0) and HALF (bit 1), the rest 0 (R29). -/
def nbCtlWord (act half : Bool) : Word :=
  (BitVec.ofBool half ++ BitVec.ofBool act).setWidth 64

/-- `NB_CTL.ACT` (R29). -/
def State.nbAct (s : State) : Bool := s.nbCtl.getLsbD 0

/-- `NB_CTL.HALF` (R29). -/
def State.nbHalf (s : State) : Bool := s.nbCtl.getLsbD 1

end Sys2Proof.Machine
end

