-- ==== Sys2Proof/Machine/Operands.lean ====
section
/-! DEFINITION. What a command takes from a register or a byte and how it is assembled: nibble codes, pair bytes, widths,
casts (00_scope.md R10, R15, R16; 10_state.md R24; 30_encoding.md R72, R82, R87; 43_decoder.md R152, R162). -/

namespace Sys2Proof.Machine

/-- `ceil_half(N) = (N + 1) div 2` (R10). -/
def ceilHalf (n : Nat) : Nat := (n + 1) / 2

/-- `neg_64(a) = (2^64 - a) mod 2^64` (R10). -/
def neg64 (a : Word) : Word := BitVec.ofNat 64 (2 ^ 64 - a.toNat)

/-- `pairMake(f, s)`: `s` in bits 7:4, `f` in bits 3:0 (40_nibble_pair.md R100). -/
def pairMake (f s : Nibble) : Byte := s ++ f

/-- `pairFirst(b) = b[3:0]` (R100). -/
def pairFirst (b : Byte) : Nibble := b.extractLsb' 0 4

/-- `pairSecond(b) = b[7:4]` (R100). -/
def pairSecond (b : Byte) : Nibble := b.extractLsb' 4 4

/-- The low nibble of a register that holds a nibble code (R24: bits 3:0 are used, the rest ignored). -/
def codeField (x : Word) : Nibble := x.extractLsb' 0 4

/-- The pair byte a register holds (R24: bits 7:0 are used, the rest ignored). -/
def pairField (x : Word) : Byte := x.extractLsb' 0 8

/-- The operand of byte width `W` in a register, as an unsigned number (R24: bits `8W-1:0` are used). -/
def valueField (W : Nat) (x : Word) : Nat := (x.setWidth (8 * W)).toNat

/-- `minBytes(v)`, the fewest bytes, at least one, that hold `v < 2^64` (R15). -/
def minBytes (v : Nat) : Nat :=
  if v < 2 ^ 8 then 1
  else if v < 2 ^ 16 then 2
  else if v < 2 ^ 24 then 3
  else if v < 2 ^ 32 then 4
  else if v < 2 ^ 40 then 5
  else if v < 2 ^ 48 then 6
  else if v < 2 ^ 56 then 7
  else 8

/-- `effWidth(c)`: 16 if `c = 0`, `c - 8` if `c > 8`, else `c` (R16). -/
def effWidth (c : Nibble) : Nat :=
  if c.toNat = 0 then Config.escBytes else if c.toNat > 8 then c.toNat - 8 else c.toNat

/-- `fltWidth(c)`: 16 if `c = 0`, else `c`; not `effWidth` for 9 to 15 (R162, 90_conflicts.md C7). -/
def fltWidth (c : Nibble) : Nat := if c.toNat = 0 then Config.escBytes else c.toNat

/-- The sign decision for bit width `T`: the raw pattern is stored if `s >= 0` or `s <= -(2^(T-8))` (R116). -/
def storeRaw (T : Nat) (s : Int) : Bool := decide (0 ≤ s) || decide (s ≤ -(2 ^ (T - 8) : Int))

/-- The class of a type tag (R82, `ty[3:2]`). -/
inductive TypeClass where
  | unsigned | signed | float | pointer
  deriving DecidableEq, Repr

/-- The class column of R82. -/
def typeClass : TypeTag → TypeClass
  | .u8 | .u16 | .u32 | .u64 => .unsigned
  | .i8 | .i16 | .i32 | .i64 => .signed
  | .f32 | .f64 => .float
  | .ptr => .pointer

/-- The width column of R82, in bytes. -/
def typeBytes : TypeTag → Nat
  | .u8 | .i8 => 1
  | .u16 | .i16 => 2
  | .u32 | .i32 | .f32 => 4
  | .u64 | .i64 | .f64 => 8
  | .ptr => Config.ptrBytes

/-- `castTo(T, acc)` for an integer or pointer type: the low bits of the accumulator, zero-extended for unsigned types
and PTR, sign-extended for signed types (R152; PRESUMED by the spec itself, G2: notes/assumptions/14.md). -/
def castTo (t : TypeTag) (acc : Word) : Word :=
  match typeClass t with
  | .signed => (acc.setWidth (8 * typeBytes t)).signExtend 64
  | _ => (acc.setWidth (8 * typeBytes t)).setWidth 64

end Sys2Proof.Machine
end

