-- ==== Sys2Proof/Machine/Ops.lean ====
section
/-! DEFINITION. The shared operations: memory, registers, the cursor, the shape of a command with the taking of a fault,
and reset, the only way out of one. -/

namespace Sys2Proof.Machine

/-! ### Memory (20_memory.md R54, 00_scope.md R12) -/

/-- `Mem[a]`. -/
def Memory.read : Memory → Nat → Byte
  | [], _ => Config.unlistedByte
  | (k, b) :: m, a => if k = a then b else Memory.read m a

/-- The list with `a` listed as `b`, in its place by address. -/
def Memory.insert (a : Nat) (b : Byte) : Memory → Memory
  | [] => [(a, b)]
  | (k, c) :: m =>
    if a < k then (a, b) :: (k, c) :: m
    else if k = a then (a, b) :: m
    else (k, c) :: Memory.insert a b m

/-- The list without an entry for `a`. -/
def Memory.erase (a : Nat) : Memory → Memory
  | [] => []
  | (k, c) :: m => if k = a then Memory.erase a m else (k, c) :: Memory.erase a m

/-- `Mem[a] <- b`; writing what an unlisted address reads as removes the entry. -/
def Memory.write (m : Memory) (a : Nat) (b : Byte) : Memory :=
  if b = Config.unlistedByte then Memory.erase a m else Memory.insert a b m

/-- From `lo` upward, addresses strictly rise below 2^64 and no entry is what an unlisted address reads as. -/
def Memory.wfFrom : Nat → Memory → Bool
  | _, [] => true
  | lo, (a, b) :: m =>
    decide (lo ≤ a) && decide (a < Config.addrLimit) && (b != Config.unlistedByte) && Memory.wfFrom (a + 1) m

/-- The canonical form of memory. -/
def Memory.wf (m : Memory) : Bool := Memory.wfFrom 0 m

/-- `MemRead(a, n)` as an unsigned number: the byte at the lowest address is the least significant (R12, R50). -/
def Memory.readLE (m : Memory) : Nat → Nat → Nat
  | _, 0 => 0
  | a, n + 1 => (Memory.read m a).toNat + 256 * Memory.readLE m (a + 1) n

/-- `MemWrite(a, n, v)`: the `n` low bytes of `v`, the least significant at the lowest address (R12, R50). -/
def Memory.writeLE (m : Memory) : Nat → Nat → Nat → Memory
  | _, 0, _ => m
  | a, n + 1, v => Memory.writeLE (Memory.write m a (BitVec.ofNat 8 v)) (a + 1) n (v / 256)

/-- An access to the `n` bytes from `a` upward: there is no address at or above 2^64 (10_state.md R37, 20_memory.md R57;
notes/assumptions/9.md). -/
def reach (a n : Nat) : Except Abort Unit :=
  if a + n ≤ Config.addrLimit then .ok () else .error (.stop .noSuchAddress)

/-- `MemRead(a, n)` of a command. -/
def load (m : Memory) (a n : Nat) : Except Abort Nat := do
  reach a n
  .ok (Memory.readLE m a n)

/-! ### Registers -/

/-- `x[i]` (00_scope.md R11, 10_state.md R22). -/
def State.getX (s : State) (i : Fin 7) : Word :=
  match i with
  | 0 => s.val
  | 1 => s.code
  | 2 => s.cbase
  | 3 => s.clen
  | 4 => s.cpos
  | 5 => s.cnt
  | 6 => s.aux

/-- `x[i] <- v` (R11, R22). -/
def State.setX (s : State) (i : Fin 7) (v : Word) : State :=
  match i with
  | 0 => { s with val := v }
  | 1 => { s with code := v }
  | 2 => { s with cbase := v }
  | 3 => { s with clen := v }
  | 4 => { s with cpos := v }
  | 5 => { s with cnt := v }
  | 6 => { s with aux := v }

/-- `VAL <- v`. -/
def State.setVal (s : State) (v : Word) : State := { s with val := v }

/-- `CODE <- v`. -/
def State.setCode (s : State) (v : Word) : State := { s with code := v }

/-- `advance(k)`: `CPOS <- CPOS + k` (20_memory.md R59). -/
def State.advance (s : State) (k : Nat) : State := { s with cpos := BitVec.ofNat 64 (s.cpos.toNat + k) }

/-- Memory replaced by `m`. -/
def State.setMem (s : State) (m : Memory) : State := { s with mem := m }

/-- The answer of the host move that is ending (10_state.md R21). -/
def State.answer (s : State) (r : Reply) : State := { s with reply := r }

/-- The next free value taken: the counter moves on (notes/assumptions/7.md). -/
def State.drawn (s : State) (n : Nat) : State := { s with draws := s.draws + n }

/-- `VAL <- r` for a decoded result `r`, where `none` is `UNSPEC64`: a free value (43_decoder.md R163). -/
def State.setResult (s : State) (r : Option Word) : State :=
  match r with
  | some v => s.setVal v
  | none => (s.setVal (Config.anyWord s.draws)).drawn 1

/-! ### The cursor (20_memory.md R55 to R59) -/

/-- `raise Fault(c)` if `p` (00_scope.md R13). -/
def raiseIf (p : Bool) (c : Cause) : Except Abort Unit := if p then .error (.raise c) else .ok ()

/-- The address `CBASE + CPOS` (R55), never wrapped (R57). -/
def State.cursorAddr (s : State) : Nat := s.cbase.toNat + s.cpos.toNat

/-- The cursor is well-formed: `CPOS <= CLEN` and `CBASE + CLEN <= 2^64` (R56). -/
def State.cursorOk (s : State) : Bool :=
  decide (s.cpos.toNat ≤ s.clen.toNat) && decide (s.cbase.toNat + s.clen.toNat ≤ Config.addrLimit)

/-- `checkCursor()` (R56). -/
def State.checkCursor (s : State) : Except Abort Unit := raiseIf (!s.cursorOk) .badCursor

/-- `checkRoom(k)` (R59). -/
def State.checkRoom (s : State) (k : Nat) : Except Abort Unit :=
  raiseIf (decide (s.cpos.toNat + k > s.clen.toNat)) .overrun

/-! ### The shape of a command, fault entry, reset -/

/-- Fault entry (60_exceptions.md R214): FSTAT takes F, CAUSE and CMD, the response status is the cause, and nothing
else changes. -/
def State.takeFault (s : State) (c : Cause) (cmd : Byte) : State :=
  { s with fstat := fstatWord c cmd, reply := .status (causeCode c) }

/-- One issued command, with `body` what its own rule does: the halt test first (R215, R216); then the body, whose
result is kept and answered OK (30_encoding.md R88); a `raise` in it throws away what it had done and takes the fault
(00_scope.md R13, R214). -/
def command (cmd : Byte) (body : State → Except Abort State) (s : State) : Host.Outcome State Fault Refusal :=
  if s.halted then .next (s.answer (.status statusHalted))
  else
    match body s with
    | .ok t => .next (t.answer (.status statusOk))
    | .error (.raise c) => .next (s.takeFault c cmd)
    | .error (.stop f) => .fault f

/-- The `Reset` move (70_reset_and_hazards.md R240), and so the only return from a fault (R217): FSTAT and NB_CTL are 0,
memory keeps every byte, and each register that R240 leaves unspecified holds a free value of its own. -/
def State.hostReset (s : State) : State :=
  { s with
    val := Config.anyWord s.draws
    code := Config.anyWord (s.draws + 1)
    cbase := Config.anyWord (s.draws + 2)
    clen := Config.anyWord (s.draws + 3)
    cpos := Config.anyWord (s.draws + 4)
    cnt := Config.anyWord (s.draws + 5)
    aux := Config.anyWord (s.draws + 6)
    fstat := 0
    nbCtl := 0
    nbBase := Config.anyWord (s.draws + 7)
    nbPair := Config.anyWord (s.draws + 8)
    nbVal := Config.anyWord (s.draws + 9)
    nbEnd := Config.anyWord (s.draws + 10)
    reply := .none
    draws := s.draws + 11 }

end Sys2Proof.Machine
end

