-- ==== Sys2Proof/Machine/Encoder.lean ====
section
/-! DEFINITION. The Encoder: PKU, PKS, PKF, PKP (41_encoder.md). -/

namespace Sys2Proof.Machine

/-- `encodeStore(u, n)`: the cursor checked, then exactly `n` bytes written at it and the cursor moved past them
(R110). -/
def encodeStore (s : State) (u n : Nat) : Except Abort State := do
  s.checkCursor
  s.checkRoom n
  reach s.cursorAddr n
  .ok ((s.setMem (s.mem.writeLE s.cursorAddr n u)).advance n)

/-- `u` stored in `n` bytes and the code `c` returned in CODE, zero-extended (R110, 10_state.md R24). -/
def encodeAs (s : State) (u n c : Nat) : Except Abort State := do
  let t ← encodeStore s u n
  .ok (t.setCode (BitVec.ofNat 64 c))

/-- `PKU(W)` (R111). -/
def packUnsigned (W : Nat) (s : State) : Except Abort State :=
  let u := valueField W s.val
  encodeAs s u (minBytes u) (minBytes u)

/-- `PKS(T)`: raw pattern under its own code, or magnitude under 8 more (R116, R117). -/
def packSigned (T : Nat) (s : State) : Except Abort State :=
  let p := s.val.setWidth T
  if storeRaw T p.toInt then
    encodeAs s p.toNat (minBytes p.toNat) (minBytes p.toNat)
  else
    let m := (-p.toInt).toNat
    encodeAs s m (minBytes m) (8 + minBytes m)

/-- `PKF(W)`: the pattern whole, always `W` bytes (R120). -/
def packFloat (W : Nat) (s : State) : Except Abort State := encodeAs s (valueField W s.val) W W

/-- PKU.U8, command byte 0x40 (R112). -/
def execPkuU8 (s : State) : Host.Outcome State Fault Refusal :=
  command (encode .pkuU8) (packUnsigned 1) s

/-- PKU.U16, command byte 0x41 (R113). -/
def execPkuU16 (s : State) : Host.Outcome State Fault Refusal :=
  command (encode .pkuU16) (packUnsigned 2) s

/-- PKU.U32, command byte 0x42 (R114). -/
def execPkuU32 (s : State) : Host.Outcome State Fault Refusal :=
  command (encode .pkuU32) (packUnsigned 4) s

/-- PKU.U64, command byte 0x43 (R115). -/
def execPkuU64 (s : State) : Host.Outcome State Fault Refusal :=
  command (encode .pkuU64) (packUnsigned 8) s

/-- PKS.I32, command byte 0x56 (R118). -/
def execPksI32 (s : State) : Host.Outcome State Fault Refusal :=
  command (encode .pksI32) (packSigned 32) s

/-- PKS.I64, command byte 0x57 (R119). -/
def execPksI64 (s : State) : Host.Outcome State Fault Refusal :=
  command (encode .pksI64) (packSigned 64) s

/-- PKF.F32, command byte 0x6A (R121). -/
def execPkfF32 (s : State) : Host.Outcome State Fault Refusal :=
  command (encode .pkfF32) (packFloat 4) s

/-- PKF.F64, command byte 0x6B (R122). -/
def execPkfF64 (s : State) : Host.Outcome State Fault Refusal :=
  command (encode .pkfF64) (packFloat 8) s

/-- PKP, command byte 0x7F (R123: exactly PKU(8)). -/
def execPkp (s : State) : Host.Outcome State Fault Refusal :=
  command (encode .pkp) (packUnsigned Config.ptrBytes) s

end Sys2Proof.Machine
end

