-- ==== Sys2Proof/Machine/NibblePair.lean ====
section
/-! DEFINITION. Nibble Pair Storage: NPMK, NPFST, NPSND (40_nibble_pair.md). Registers only: no memory, no fault. -/

namespace Sys2Proof.Machine

/-- `VAL <- zext_64(pairMake(CODE[3:0], AUX[3:0]))` (R101). -/
def makePair (s : State) : Except Abort State :=
  .ok (s.setVal ((pairMake (codeField s.code) (codeField s.aux)).setWidth 64))

/-- `CODE <- zext_64(pairFirst(VAL[7:0]))` (R102). -/
def firstOfPair (s : State) : Except Abort State :=
  .ok (s.setCode ((pairFirst (pairField s.val)).setWidth 64))

/-- `CODE <- zext_64(pairSecond(VAL[7:0]))` (R103). -/
def secondOfPair (s : State) : Except Abort State :=
  .ok (s.setCode ((pairSecond (pairField s.val)).setWidth 64))

/-- NPMK, command byte 0x10 (R101). -/
def execNpmk (s : State) : Host.Outcome State Fault Refusal :=
  command (encode .npmk) makePair s

/-- NPFST, command byte 0x20 (R102). -/
def execNpfst (s : State) : Host.Outcome State Fault Refusal :=
  command (encode .npfst) firstOfPair s

/-- NPSND, command byte 0x30 (R103). -/
def execNpsnd (s : State) : Host.Outcome State Fault Refusal :=
  command (encode .npsnd) secondOfPair s

end Sys2Proof.Machine
end

