-- ==== Sys2Proof/Machine/Decoder.lean ====
section
/-! DEFINITION. The Decoder: UPI, UPP, UPF (43_decoder.md), over a base `B`, a limit `L` and a position `p`, so that the
stream cursor can call it on its own positions (44_stream_cursor.md R186). -/

namespace Sys2Proof.Machine

/-- The accumulator and the byte count of an integer decode (R151). -/
def intDecode (m : Memory) (B L p : Nat) (c : Nibble) : Except Abort (Word × Nat) := do
  raiseIf (decide (c.toNat = 0)) .reservedCode
  let k := if c.toNat ≤ 8 then c.toNat else c.toNat - 8
  raiseIf (decide (p + k > L)) .overrun
  let v ← load m (B + p) k
  let acc := BitVec.ofNat 64 v
  .ok (if c.toNat > 8 then neg64 acc else acc, k)

/-- The pattern and the byte count of a float decode for the byte width `W`; the result is `none`, `UNSPEC64`, where the
code is not `W` (R163). No byte is read there: R163 says that this cannot be observed (notes/assumptions/13.md). -/
def fltDecode (m : Memory) (B L p : Nat) (c : Nibble) (W : Nat) : Except Abort (Option Word × Nat) := do
  let k := fltWidth c
  raiseIf (decide (p + k > L)) .overrun
  if (W = 4 ∧ c = 4) ∨ (W = 8 ∧ c = 8) then do
    let v ← load m (B + p) W
    .ok (some (BitVec.ofNat 64 v), k)
  else .ok (none, k)

/-- `decodeAs(T, c)`: the integer path with its cast for integer and pointer types, the float path for the others
(R150, R152; 44_stream_cursor.md R186). -/
def decodeAs (t : TypeTag) (m : Memory) (B L p : Nat) (c : Nibble) : Except Abort (Option Word × Nat) :=
  match typeClass t with
  | .float => fltDecode m B L p c (typeBytes t)
  | _ => do
    let r ← intDecode m B L p c
    .ok (some (castTo t r.1), r.2)

/-- The shape of every decode command: result to VAL, CPOS moved by the bytes consumed (R150). -/
def unpack (t : TypeTag) (s : State) : Except Abort State := do
  s.checkCursor
  let r ← decodeAs t s.mem s.cbase.toNat s.clen.toNat s.cpos.toNat (codeField s.code)
  .ok ((s.setResult r.1).advance r.2)

/-- UPI.U8, command byte 0x90 (R153). -/
def execUpiU8 (s : State) : Host.Outcome State Fault Refusal :=
  command (encode .upiU8) (unpack .u8) s

/-- UPI.U16, command byte 0x91 (R154). -/
def execUpiU16 (s : State) : Host.Outcome State Fault Refusal :=
  command (encode .upiU16) (unpack .u16) s

/-- UPI.U32, command byte 0x92 (R155). -/
def execUpiU32 (s : State) : Host.Outcome State Fault Refusal :=
  command (encode .upiU32) (unpack .u32) s

/-- UPI.U64, command byte 0x93 (R156). -/
def execUpiU64 (s : State) : Host.Outcome State Fault Refusal :=
  command (encode .upiU64) (unpack .u64) s

/-- UPI.I8, command byte 0x94 (R157). -/
def execUpiI8 (s : State) : Host.Outcome State Fault Refusal :=
  command (encode .upiI8) (unpack .i8) s

/-- UPI.I16, command byte 0x95 (R158). -/
def execUpiI16 (s : State) : Host.Outcome State Fault Refusal :=
  command (encode .upiI16) (unpack .i16) s

/-- UPI.I32, command byte 0x96 (R159). -/
def execUpiI32 (s : State) : Host.Outcome State Fault Refusal :=
  command (encode .upiI32) (unpack .i32) s

/-- UPI.I64, command byte 0x97 (R160). -/
def execUpiI64 (s : State) : Host.Outcome State Fault Refusal :=
  command (encode .upiI64) (unpack .i64) s

/-- UPF.F32, command byte 0xAA (R164). -/
def execUpfF32 (s : State) : Host.Outcome State Fault Refusal :=
  command (encode .upfF32) (unpack .f32) s

/-- UPF.F64, command byte 0xAB (R165). -/
def execUpfF64 (s : State) : Host.Outcome State Fault Refusal :=
  command (encode .upfF64) (unpack .f64) s

/-- UPP, command byte 0xBF (R161). -/
def execUpp (s : State) : Host.Outcome State Fault Refusal :=
  command (encode .upp) (unpack .ptr) s

end Sys2Proof.Machine
end

