-- ==== Sys2Proof/Machine/Scanner.lean ====
section
/-! DEFINITION. The Size Scanner: SCAN (42_size_scanner.md), and the checked scan that NBNEW shares with it. -/

namespace Sys2Proof.Machine

/-- `nib(A, i)`, the code of value number `i` in the nibble-pair array at address `A` (30_encoding.md R73). -/
def nib (m : Memory) (A i : Nat) : Nibble :=
  if i % 2 = 0 then pairFirst (m.read (A + i / 2)) else pairSecond (m.read (A + i / 2))

/-- `scanTotal(A, N)`, the sum of `effWidth(nib(A, i))` for `i < N` (R140). -/
def scanTotal (m : Memory) (A : Nat) : Nat → Nat
  | 0 => 0
  | n + 1 => scanTotal m A n + effWidth (nib m A n)

/-- The checks that SCAN and NBNEW make on the cursor, the count and the nibble-pair array, in their order, and the
scan of the array (R141; 44_stream_cursor.md R183). -/
def scanArray (s : State) : Except Abort Nat := do
  s.checkCursor
  raiseIf (decide (s.cnt.toNat > Config.nmax)) .badCount
  s.checkRoom (ceilHalf s.cnt.toNat)
  reach s.cursorAddr (ceilHalf s.cnt.toNat)
  .ok (scanTotal s.mem s.cursorAddr s.cnt.toNat)

/-- The rule of SCAN: `VAL` is the total, and the cursor is not moved (R141). -/
def scanSize (s : State) : Except Abort State := do
  let total ← scanArray s
  .ok (s.setVal (BitVec.ofNat 64 total))

/-- SCAN, command byte 0x80 (R141). -/
def execScan (s : State) : Host.Outcome State Fault Refusal :=
  command (encode .scan) scanSize s

end Sys2Proof.Machine
end

