-- ==== Sys2Proof/Machine/StreamCursor.lean ====
section
/-! DEFINITION. The Stream Cursor: NBNEW, NBNXT, NBEND (44_stream_cursor.md). -/

namespace Sys2Proof.Machine

/-- The stream cursor registers after construction, with `P` array bytes and `total` value bytes (R183). -/
def State.openCursor (s : State) (P total : Nat) : State :=
  { s with
    nbBase := s.cbase
    nbPair := s.cpos
    nbVal := BitVec.ofNat 64 (s.cpos.toNat + P)
    nbEnd := BitVec.ofNat 64 (s.cpos.toNat + P + total)
    nbCtl := nbCtlWord true false }

/-- The rule of NBNEW (R183): the array must fit, then the value stream too. -/
def construct (s : State) : Except Abort State := do
  let total ← scanArray s
  s.checkRoom (ceilHalf s.cnt.toNat + total)
  .ok (s.openCursor (ceilHalf s.cnt.toNat) total)

/-- `curCode()`: the current half of the current pair byte, read from memory at each call (R185). -/
def curCode (s : State) : Except Abort Nibble := do
  let v ← load s.mem (s.nbBase.toNat + s.nbPair.toNat) 1
  let b := BitVec.ofNat 8 v
  .ok (if s.nbHalf then pairSecond b else pairFirst b)

/-- Both cursors moved past a value of `k` bytes: the pair pointer only from the second half, HALF toggled (R190). -/
def State.stepCursor (s : State) (k : Nat) : State :=
  { s with
    nbVal := BitVec.ofNat 64 (s.nbVal.toNat + k)
    nbPair := if s.nbHalf then BitVec.ofNat 64 (s.nbPair.toNat + 1) else s.nbPair
    nbCtl := nbCtlWord s.nbAct (!s.nbHalf) }

/-- `NBNXT(T)` (R190). -/
def getNext (t : TypeTag) (s : State) : Except Abort State := do
  raiseIf (!s.nbAct) .nbInactive
  raiseIf (decide (s.nbVal.toNat ≥ s.nbEnd.toNat)) .endOfValues
  let c ← curCode s
  let r ← decodeAs t s.mem s.nbBase.toNat s.nbEnd.toNat s.nbVal.toNat c
  .ok ((s.setResult r.1).stepCursor r.2)

/-- The rule of NBEND: the end offset, counted from NB_BASE (R202). -/
def endOfArguments (s : State) : Except Abort State := do
  raiseIf (!s.nbAct) .nbInactive
  .ok (s.setVal s.nbEnd)

/-- NBNEW, command byte 0xC0 (R183). -/
def execNbnew (s : State) : Host.Outcome State Fault Refusal :=
  command (encode .nbnew) construct s

/-- NBNXT.U8, command byte 0xD0 (R191). -/
def execNbnxtU8 (s : State) : Host.Outcome State Fault Refusal :=
  command (encode .nbnxtU8) (getNext .u8) s

/-- NBNXT.U16, command byte 0xD1 (R192). -/
def execNbnxtU16 (s : State) : Host.Outcome State Fault Refusal :=
  command (encode .nbnxtU16) (getNext .u16) s

/-- NBNXT.U32, command byte 0xD2 (R193). -/
def execNbnxtU32 (s : State) : Host.Outcome State Fault Refusal :=
  command (encode .nbnxtU32) (getNext .u32) s

/-- NBNXT.U64, command byte 0xD3 (R194). -/
def execNbnxtU64 (s : State) : Host.Outcome State Fault Refusal :=
  command (encode .nbnxtU64) (getNext .u64) s

/-- NBNXT.I8, command byte 0xD4 (R195). -/
def execNbnxtI8 (s : State) : Host.Outcome State Fault Refusal :=
  command (encode .nbnxtI8) (getNext .i8) s

/-- NBNXT.I16, command byte 0xD5 (R196). -/
def execNbnxtI16 (s : State) : Host.Outcome State Fault Refusal :=
  command (encode .nbnxtI16) (getNext .i16) s

/-- NBNXT.I32, command byte 0xD6 (R197). -/
def execNbnxtI32 (s : State) : Host.Outcome State Fault Refusal :=
  command (encode .nbnxtI32) (getNext .i32) s

/-- NBNXT.I64, command byte 0xD7 (R198). -/
def execNbnxtI64 (s : State) : Host.Outcome State Fault Refusal :=
  command (encode .nbnxtI64) (getNext .i64) s

/-- NBNXT.F32, command byte 0xDA (R199). -/
def execNbnxtF32 (s : State) : Host.Outcome State Fault Refusal :=
  command (encode .nbnxtF32) (getNext .f32) s

/-- NBNXT.F64, command byte 0xDB (R200). -/
def execNbnxtF64 (s : State) : Host.Outcome State Fault Refusal :=
  command (encode .nbnxtF64) (getNext .f64) s

/-- NBNXT.PTR, command byte 0xDF (R201). -/
def execNbnxtPtr (s : State) : Host.Outcome State Fault Refusal :=
  command (encode .nbnxtPtr) (getNext .ptr) s

/-- NBEND, command byte 0xE0 (R202). -/
def execNbend (s : State) : Host.Outcome State Fault Refusal :=
  command (encode .nbend) endOfArguments s

end Sys2Proof.Machine
end

