-- ==== Sys2Proof/Machine/Dispatch.lean ====
section
/-! DEFINITION. The dispatch of the 37 commands to their meanings. -/

namespace Sys2Proof.Machine

def exec (i : Instr) (s : State) : Host.Outcome State Fault Refusal :=
  match i with
  | .npmk => Sys2Proof.Machine.execNpmk s
  | .npfst => Sys2Proof.Machine.execNpfst s
  | .npsnd => Sys2Proof.Machine.execNpsnd s
  | .pkuU8 => Sys2Proof.Machine.execPkuU8 s
  | .pkuU16 => Sys2Proof.Machine.execPkuU16 s
  | .pkuU32 => Sys2Proof.Machine.execPkuU32 s
  | .pkuU64 => Sys2Proof.Machine.execPkuU64 s
  | .pksI32 => Sys2Proof.Machine.execPksI32 s
  | .pksI64 => Sys2Proof.Machine.execPksI64 s
  | .pkfF32 => Sys2Proof.Machine.execPkfF32 s
  | .pkfF64 => Sys2Proof.Machine.execPkfF64 s
  | .pkp => Sys2Proof.Machine.execPkp s
  | .scan => Sys2Proof.Machine.execScan s
  | .upiU8 => Sys2Proof.Machine.execUpiU8 s
  | .upiU16 => Sys2Proof.Machine.execUpiU16 s
  | .upiU32 => Sys2Proof.Machine.execUpiU32 s
  | .upiU64 => Sys2Proof.Machine.execUpiU64 s
  | .upiI8 => Sys2Proof.Machine.execUpiI8 s
  | .upiI16 => Sys2Proof.Machine.execUpiI16 s
  | .upiI32 => Sys2Proof.Machine.execUpiI32 s
  | .upiI64 => Sys2Proof.Machine.execUpiI64 s
  | .upfF32 => Sys2Proof.Machine.execUpfF32 s
  | .upfF64 => Sys2Proof.Machine.execUpfF64 s
  | .upp => Sys2Proof.Machine.execUpp s
  | .nbnew => Sys2Proof.Machine.execNbnew s
  | .nbnxtU8 => Sys2Proof.Machine.execNbnxtU8 s
  | .nbnxtU16 => Sys2Proof.Machine.execNbnxtU16 s
  | .nbnxtU32 => Sys2Proof.Machine.execNbnxtU32 s
  | .nbnxtU64 => Sys2Proof.Machine.execNbnxtU64 s
  | .nbnxtI8 => Sys2Proof.Machine.execNbnxtI8 s
  | .nbnxtI16 => Sys2Proof.Machine.execNbnxtI16 s
  | .nbnxtI32 => Sys2Proof.Machine.execNbnxtI32 s
  | .nbnxtI64 => Sys2Proof.Machine.execNbnxtI64 s
  | .nbnxtF32 => Sys2Proof.Machine.execNbnxtF32 s
  | .nbnxtF64 => Sys2Proof.Machine.execNbnxtF64 s
  | .nbnxtPtr => Sys2Proof.Machine.execNbnxtPtr s
  | .nbend => Sys2Proof.Machine.execNbend s

end Sys2Proof.Machine
end

