-- ==== Sys2Proof/Machine/HostMoves.lean ====
section
/-! DEFINITION. The moves of the host (10_state.md R21), each a function of the state it finds. -/

namespace Sys2Proof.Machine

/-- `RegWrite(i, v)` (R21). It returns nothing. -/
def hostRegWrite (i : Fin 7) (v : Word) (s : State) : State := (s.setX i v).answer .none

/-- `RegRead(i)` returns `x[i]` (R21). -/
def hostRegRead (i : Fin 7) (s : State) : State := s.answer (.word (s.getX i))

/-- The status register number `j` as stored; 0 for `j > 5` (R27). -/
def State.csr (s : State) (j : Nat) : Word :=
  match j with
  | 0 => s.fstat
  | 1 => s.nbCtl
  | 2 => s.nbBase
  | 3 => s.nbPair
  | 4 => s.nbVal
  | 5 => s.nbEnd
  | _ => 0

/-- `CsrRead(j)` (R21, R27). NB_BASE, NB_PAIR, NB_VAL and NB_END answer a free value while `ACT = 0` (R41,
93_implementation_defined.md U13; notes/assumptions/12.md). -/
def hostCsrRead (j : Nat) (s : State) : State :=
  if !s.nbAct && decide (2 ≤ j) && decide (j ≤ 5) then (s.drawn 1).answer (.word (Config.anyWord s.draws))
  else s.answer (.word (s.csr j))

/-- `HostMemRead(a)` (R21). -/
def hostMemRead (a : Word) (s : State) : State := s.answer (.byte (s.mem.read a.toNat))

/-- `HostMemWrite(a, b)` (R21). It returns nothing. -/
def hostMemWrite (a : Word) (b : Byte) (s : State) : State := (s.setMem (s.mem.write a.toNat b)).answer .none

/-- `Issue` of a byte that is none of the 37: HALTED if CORE is halted, else ILLEGAL_CMD (30_encoding.md R84;
60_exceptions.md R215, R216). -/
def execIllegal (cmd : Byte) (s : State) : Host.Outcome State Fault Refusal :=
  command cmd (fun _ => .error (.raise .illegalCmd)) s

/-- `Issue(cmd)` (R21). The halt test comes before decoding (R216): it is the first thing in both branches, so what
decoding would have said has no effect on a halted CORE (R215; notes/assumptions/11.md). -/
def hostIssue (cmd : Byte) (s : State) : Host.Outcome State Fault Refusal :=
  match decode cmd with
  | .ok i => exec i s
  | .error _ => execIllegal cmd s

/-- One move of the host, from a state in which it is no longer on the script. -/
def hostMove (mv : HostMove) (s : State) : Host.Outcome State Fault Refusal :=
  match mv with
  | .regWrite i v => .next (hostRegWrite i v s)
  | .regRead i => .next (hostRegRead i s)
  | .csrRead j => .next (hostCsrRead j s)
  | .issue cmd => hostIssue cmd s
  | .memRead a => .next (hostMemRead a s)
  | .memWrite a b => .next (hostMemWrite a b s)
  | .reset => .next s.hostReset

/-- The state whose next host move is `mv`, the rest of the script after it. -/
def State.prepend (s : State) (mv : HostMove) : State := { s with script := mv :: s.script }

/-- The next move taken off the script and made; with no move to come nothing changes (10_state.md R20). -/
def nextMove (s : State) : Host.Outcome State Fault Refusal :=
  match s.script with
  | [] => .next s
  | mv :: rest => hostMove mv { s with script := rest }

end Sys2Proof.Machine
end

