-- ==== Sys2Proof/Machine/Step.lean ====
section
/-! DEFINITION. One step of the machine, and how the host of the pipeline places a command for it. -/

namespace Sys2Proof.Machine

/-- One step: one move of the host, start to finish (10_state.md R20, R21; 20_memory.md R62). CORE has no program counter
and fetches nothing (R26): the script of host moves stands for the sequence of commands, which is the host's
(notes/assumptions/5.md). -/
def step (s : State) : Host.Outcome State Fault Refusal := nextMove s

/-- `s` with `Issue` of the byte `w` as its next host move, before whatever was on the script. -/
def State.withFetchWord (s : State) (nbits w : Nat) : State := s.prepend (.issue (commandByte nbits w))

end Sys2Proof.Machine
end

