-- ==== Sys2Proof/Safety.lean ====
section
/-! DEFINITION. The terms claims are made in: the invariant of CORE, the tables of which command reads, writes and raises
what (10_state.md R23, 60_exceptions.md R213), and runs of commands that all answer OK. -/

namespace Sys2Proof.Machine

/-! ### The invariant -/

/-- FSTAT has a form R28 allows: bits 3:1 and 63:16 are 0, CAUSE is 0 to 7, CAUSE and CMD are 0 while `F = 0`, and
CAUSE is not 0 while `F = 1` (60_exceptions.md R211: code 0 means no fault). -/
abbrev State.FstatLegal (s : State) : Prop :=
  s.fstat.extractLsb' 1 3 = 0 ∧ s.fstat.extractLsb' 16 48 = 0 ∧ s.fstatCause.toNat ≤ 7 ∧
    (s.halted = false → s.fstatCause = 0 ∧ s.fstatCmd = 0) ∧ (s.halted = true → s.fstatCause ≠ 0)

/-- NB_CTL has a form R29 allows: bits 63:2 are 0. -/
abbrev State.NbCtlLegal (s : State) : Prop := s.nbCtl.extractLsb' 2 62 = 0

/-- The invariant of the stream cursor registers while `ACT = 1` (10_state.md R34). -/
abbrev State.StreamCursorOk (s : State) : Prop :=
  s.nbAct = true →
    s.nbPair.toNat ≤ s.nbVal.toNat ∧ s.nbVal.toNat ≤ s.nbEnd.toNat ∧ s.nbBase.toNat + s.nbEnd.toNat ≤ 2 ^ 64

/-- What every state of CORE has: memory in canonical form, and the three conditions above. -/
structure State.Inv (s : State) : Prop where
  mem_wf : Memory.wf s.mem = true
  fstat_legal : s.FstatLegal
  nbCtl_legal : s.NbCtlLegal
  stream_cursor : s.StreamCursorOk

/-- The cursor is well-formed (20_memory.md R56). -/
abbrev State.CursorWellFormed (s : State) : Prop :=
  s.cpos.toNat ≤ s.clen.toNat ∧ s.cbase.toNat + s.clen.toNat ≤ 2 ^ 64

/-! ### What a fault leaves -/

/-- `s` after the command `i` faulted: `FSTAT = (cmd << 8) | (cause << 4) | 1`, the cause as status, all else as it
was (60_exceptions.md R214, 10_state.md R28). -/
def State.afterFault (s : State) (c : Cause) (i : Instr) : State :=
  { s with
    fstat := BitVec.ofNat 64 ((encode i).toNat * 256 + (causeCode c).toNat * 16 + 1)
    reply := .status (causeCode c) }

/-! ### Which command does what -/

/-- The parts of CORE a command belongs to (30_encoding.md R81), the Stream Cursor's three operations apart. -/
inductive Family where
  | nibblePair | encoder | scanner | integerDecoder | floatDecoder | construct | nextInteger | nextFloat | endOf
  deriving DecidableEq, Repr

/-- The part each command belongs to (R81). -/
def family : Instr → Family
  | .npmk | .npfst | .npsnd => .nibblePair
  | .pkuU8 | .pkuU16 | .pkuU32 | .pkuU64 | .pksI32 | .pksI64 | .pkfF32 | .pkfF64 | .pkp => .encoder
  | .scan => .scanner
  | .upiU8 | .upiU16 | .upiU32 | .upiU64 | .upiI8 | .upiI16 | .upiI32 | .upiI64 | .upp => .integerDecoder
  | .upfF32 | .upfF64 => .floatDecoder
  | .nbnew => .construct
  | .nbnxtU8 | .nbnxtU16 | .nbnxtU32 | .nbnxtU64 | .nbnxtI8 | .nbnxtI16 | .nbnxtI32 | .nbnxtI64 | .nbnxtPtr =>
    .nextInteger
  | .nbnxtF32 | .nbnxtF64 => .nextFloat
  | .nbend => .endOf

/-- The column "reads" of 10_state.md R23, by register index. -/
def readsX (i : Instr) : List (Fin 7) :=
  match i with
  | .npmk => [1, 6]
  | .npfst | .npsnd => [0]
  | _ =>
    match family i with
    | .nibblePair => []
    | .encoder => [0, 2, 3, 4]
    | .scanner | .construct => [2, 3, 4, 5]
    | .integerDecoder | .floatDecoder => [1, 2, 3, 4]
    | .nextInteger | .nextFloat | .endOf => []

/-- The column "writes" of R23, by register index. -/
def writesX (i : Instr) : List (Fin 7) :=
  match i with
  | .npmk => [0]
  | .npfst | .npsnd => [1]
  | _ =>
    match family i with
    | .nibblePair => []
    | .encoder => [1, 4]
    | .scanner => [0]
    | .integerDecoder | .floatDecoder => [0, 4]
    | .construct => []
    | .nextInteger | .nextFloat | .endOf => [0]

/-- The table of 60_exceptions.md R213: the faults each command can raise. -/
def mayRaise (i : Instr) : List Cause :=
  match family i with
  | .nibblePair => []
  | .encoder | .floatDecoder => [.badCursor, .overrun]
  | .scanner | .construct => [.badCursor, .overrun, .badCount]
  | .integerDecoder => [.badCursor, .overrun, .reservedCode]
  | .nextInteger => [.overrun, .reservedCode, .endOfValues, .nbInactive]
  | .nextFloat => [.overrun, .endOfValues, .nbInactive]
  | .endOf => [.nbInactive]

/-- The commands that return the next value, one for each tag (44_stream_cursor.md R190). -/
def isNext (i : Instr) : Bool := family i == .nextInteger || family i == .nextFloat

/-- The addresses a command may touch (20_memory.md R58): the stream cursor's record for NBNXT, else the cursor's
window from the cursor on. -/
def State.InReach (s : State) (i : Instr) (a : Nat) : Prop :=
  if isNext i then s.nbBase.toNat ≤ a ∧ a < s.nbBase.toNat + s.nbEnd.toNat
  else s.cbase.toNat + s.cpos.toNat ≤ a ∧ a < s.cbase.toNat + s.clen.toNat

/-! ### Values -/

/-- The number whose `k` bytes lie from `a` upward, the least significant first (20_memory.md R50). -/
def bytesValue (m : Memory) (a k : Nat) : Nat := ∑ j ∈ Finset.range k, (Memory.read m (a + j)).toNat * 256 ^ j

/-- The low `w` bits of `acc` as VAL holds them: read as a signed number or as an unsigned one (43_decoder.md R152). -/
def widened (signed : Bool) (w acc : Nat) : Word :=
  if signed then BitVec.ofInt 64 (BitVec.ofNat w acc).toInt else BitVec.ofNat 64 (acc % 2 ^ w)

/-- The bytes an integer decode consumes under code `c` (43_decoder.md R151). -/
def intWidth (c : Nat) : Nat := if c ≤ 8 then c else c - 8

/-- The accumulator of an integer decode of the stored number `raw` under code `c` (43_decoder.md R151). -/
def accOf (c raw : Nat) : Nat := if c > 8 then (2 ^ 64 - raw) % 2 ^ 64 else raw

/-- The current nibble code of the stream cursor (44_stream_cursor.md R185). -/
def State.currentCode (s : State) : Nat :=
  let b := (Memory.read s.mem (s.nbBase.toNat + s.nbPair.toNat)).toNat
  if s.nbHalf then b / 16 else b % 16

/-- The stream cursor moved past a value of `k` bytes, answered OK (44_stream_cursor.md R190). -/
def State.movedPast (s : State) (k : Nat) : State :=
  { s with
    nbVal := BitVec.ofNat 64 (s.nbVal.toNat + k)
    nbPair := if s.nbHalf then BitVec.ofNat 64 (s.nbPair.toNat + 1) else s.nbPair
    nbCtl := if s.nbHalf then 1 else 3
    reply := .status 0 }

/-! ### Matching encoders and decoders (43_decoder.md R166) -/

/-- The decode command of R166's table for an encode command; other commands stand for themselves. -/
def decoderOf : Instr → Instr
  | .pkuU8 => .upiU8
  | .pkuU16 => .upiU16
  | .pkuU32 => .upiU32
  | .pkuU64 => .upiU64
  | .pksI32 => .upiI32
  | .pksI64 => .upiI64
  | .pkfF32 => .upfF32
  | .pkfF64 => .upfF64
  | .pkp => .upp
  | i => i

/-- The NBNXT command with the tag of `decoderOf` (44_stream_cursor.md R203). -/
def nextOf : Instr → Instr
  | .pkuU8 => .nbnxtU8
  | .pkuU16 => .nbnxtU16
  | .pkuU32 => .nbnxtU32
  | .pkuU64 => .nbnxtU64
  | .pksI32 => .nbnxtI32
  | .pksI64 => .nbnxtI64
  | .pkfF32 => .nbnxtF32
  | .pkfF64 => .nbnxtF64
  | .pkp => .nbnxtPtr
  | i => i

/-- What R166's table says VAL holds after the round trip of the operand `v`. -/
def packedValue (i : Instr) (v : Word) : Word :=
  match i with
  | .pkuU8 => (v.setWidth 8).setWidth 64
  | .pkuU16 => (v.setWidth 16).setWidth 64
  | .pkuU32 | .pkfF32 => (v.setWidth 32).setWidth 64
  | .pksI32 => (v.setWidth 32).signExtend 64
  | _ => v

/-! ### Runs of commands that answer OK -/

/-- The command `i` at `s`, if it answers OK. -/
def execOk (i : Instr) (s : State) : Option State :=
  match exec i s with
  | .next t => if t.reply = .status 0 then some t else none
  | _ => none

/-- Commands one after another, each answering OK, with VAL after each. -/
def runValues : List Instr → State → Option (List Word × State)
  | [], s => some ([], s)
  | i :: is, s => (execOk i s).bind fun t => (runValues is t).map fun r => (t.val :: r.1, r.2)

/-- The host packing a list of values: VAL written, the encode command issued, the returned code collected
(41_encoder.md R110). -/
def packAll : List (Instr × Word) → State → Option (List Nibble × State)
  | [], s => some ([], s)
  | (i, v) :: l, s => (execOk i (s.setX 0 v)).bind fun t => (packAll l t).map fun r => (codeField t.code :: r.1, r.2)

end Sys2Proof.Machine
end

