-- ==== Sys2Proof/Certificates/Slice0/Obligations.lean ====
section
/-! DEFINITION. The statements for the provers, from the numbered rules of spec/. `.status 0` is the response OK, and a
state written `{ s with … }` says that every field not named is as it was. -/

open Sys2Proof Sys2Proof.Machine

/-! ### The command byte -/

/-- R83: the 37 command bytes, each written out, decode to their commands, and no other byte decodes. -/
def Obligations.WrittenBytesDecode : Prop :=
  let table : List (Byte × Instr) :=
    [(0x10, .npmk), (0x20, .npfst), (0x30, .npsnd), (0x40, .pkuU8), (0x41, .pkuU16), (0x42, .pkuU32),
     (0x43, .pkuU64), (0x56, .pksI32), (0x57, .pksI64), (0x6A, .pkfF32), (0x6B, .pkfF64), (0x7F, .pkp),
     (0x80, .scan), (0x90, .upiU8), (0x91, .upiU16), (0x92, .upiU32), (0x93, .upiU64), (0x94, .upiI8),
     (0x95, .upiI16), (0x96, .upiI32), (0x97, .upiI64), (0xAA, .upfF32), (0xAB, .upfF64), (0xBF, .upp),
     (0xC0, .nbnew), (0xD0, .nbnxtU8), (0xD1, .nbnxtU16), (0xD2, .nbnxtU32), (0xD3, .nbnxtU64), (0xD4, .nbnxtI8),
     (0xD5, .nbnxtI16), (0xD6, .nbnxtI32), (0xD7, .nbnxtI64), (0xDA, .nbnxtF32), (0xDB, .nbnxtF64),
     (0xDF, .nbnxtPtr), (0xE0, .nbend)]
  (∀ row ∈ table, decode row.1 = .ok row.2) ∧ ∀ b i, decode b = .ok i → (b, i) ∈ table

/-- R80 to R84, whole: decoding the encoding of every command gives it back, a byte that decodes is the encoding of what
it decodes to, the bytes that decode are exactly those with legal fields, and a step on the encoding of a command runs
that command. -/
def Obligations.DecodeEncodeAgree : Prop :=
  (∀ i : Instr, i.wellFormed = true → decode (encode i) = .ok i) ∧
  (∀ (b : Byte) (i : Instr), decode b = .ok i → encode i = b) ∧
  (∀ b : Byte, (∃ i, decode b = .ok i) ↔ (Cmd8.ofByte b).wellFormed = true) ∧
  ∀ (i : Instr) (s : State), step (s.withFetchWord 8 (encode i).toNat) = exec i s

/-- R21, R26: when the next host move issues a byte that decodes to `i`, the step is `exec i` on the state with that move
taken off the script. -/
def Obligations.StepRunsTheDecodedCommand : Prop :=
  ∀ (s : State) (cmd : Byte) (rest : List HostMove) (i : Instr),
    s.script = .issue cmd :: rest → decode cmd = .ok i → i.wellFormed = true →
    step s = exec i { s with script := rest }

/-- R84: issuing a byte that is the encoding of no command takes the fault ILLEGAL_CMD (cause 1) and changes nothing but
the fault status and the response. -/
def Obligations.IllegalByteTakesIllegalCmd : Prop :=
  ∀ (s : State) (cmd : Byte) (rest : List HostMove),
    s.script = .issue cmd :: rest → s.halted = false → (∀ i, encode i ≠ cmd) →
    step s = .next { s with
      script := rest
      fstat := BitVec.ofNat 64 (cmd.toNat * 256 + 1 * 16 + 1)
      reply := .status 1 }

/-! ### Halt, host moves, reset -/

/-- R215: while `FSTAT.F = 1` every issued byte, legal or not, answers HALTED and changes nothing. -/
def Obligations.HaltedIssueChangesNothing : Prop :=
  (∀ (s : State) (cmd : Byte) (rest : List HostMove),
    s.script = .issue cmd :: rest → s.halted = true →
    step s = .next { s with script := rest, reply := .status 0xF }) ∧
  ∀ (i : Instr) (s : State), s.halted = true → exec i s = .next { s with reply := .status 0xF }

/-- R20: with no host move to come, a step changes nothing. -/
def Obligations.IdleStepChangesNothing : Prop :=
  ∀ s : State, s.script = [] → step s = .next s

/-- R21: RegWrite sets the one operand register and changes nothing else; RegRead answers it and changes nothing. Both
work on a halted CORE too (R215). -/
def Obligations.HostRegisterMoves : Prop :=
  ∀ (s : State) (rest : List HostMove) (i : Fin 7),
    (∀ v : Word, s.script = .regWrite i v :: rest →
      ∃ t, step s = .next t ∧ t.getX i = v ∧ (∀ j, j ≠ i → t.getX j = s.getX j) ∧
        t = { s with val := t.val, code := t.code, cbase := t.cbase, clen := t.clen, cpos := t.cpos, cnt := t.cnt,
                     aux := t.aux, script := rest, reply := .none }) ∧
    (s.script = .regRead i :: rest →
      step s = .next { s with script := rest, reply := .word (s.getX i) })

/-- R27: CsrRead answers the status register of that number, and 0 above 5. While `ACT = 0` registers 2 to 5 answer a
value of which nothing is said (R41, U13; the draw counter is the model's own). -/
def Obligations.CsrReadAnswers : Prop :=
  ∀ (s : State) (rest : List HostMove) (j : Nat), s.script = .csrRead j :: rest →
    (j = 0 → step s = .next { s with script := rest, reply := .word s.fstat }) ∧
    (j = 1 → step s = .next { s with script := rest, reply := .word s.nbCtl }) ∧
    (s.nbAct = true →
      (j = 2 → step s = .next { s with script := rest, reply := .word s.nbBase }) ∧
      (j = 3 → step s = .next { s with script := rest, reply := .word s.nbPair }) ∧
      (j = 4 → step s = .next { s with script := rest, reply := .word s.nbVal }) ∧
      (j = 5 → step s = .next { s with script := rest, reply := .word s.nbEnd })) ∧
    (s.nbAct = false → 2 ≤ j → j ≤ 5 →
      ∃ v, step s = .next { s with script := rest, reply := .word v, draws := s.draws + 1 }) ∧
    (5 < j → step s = .next { s with script := rest, reply := .word 0 })

/-- R54: a host write changes that one byte and nothing else; a host read answers the byte last written and changes
nothing. -/
def Obligations.HostMemoryMoves : Prop :=
  ∀ (s : State) (rest : List HostMove) (a : Word),
    (∀ b : Byte, s.script = .memWrite a b :: rest →
      ∃ m, step s = .next { s with script := rest, reply := .none, mem := m } ∧
        m.read a.toNat = b ∧ ∀ a', a' ≠ a.toNat → m.read a' = s.mem.read a') ∧
    (s.script = .memRead a :: rest →
      step s = .next { s with script := rest, reply := .byte (s.mem.read a.toNat) })

/-- R240: after Reset FSTAT and NB_CTL are 0, the output `fault` is 0 and memory keeps every byte; nothing is said of
the registers the rule leaves unspecified. -/
def Obligations.ResetMoveClearsFaultAndCursor : Prop :=
  ∀ (s : State) (rest : List HostMove), s.script = .reset :: rest →
    ∃ t, step s = .next t ∧ t.fstat = 0 ∧ t.fstatCause = 0 ∧ t.fstatCmd = 0 ∧ t.nbCtl = 0 ∧ t.nbAct = false ∧
      t.nbHalf = false ∧ t.halted = false ∧ t.faultLine = false ∧ t.mem = s.mem ∧ t.script = rest

/-- R41: what the spec states for the state after reset. -/
def Obligations.ResetStateIsAsStated : Prop :=
  State.reset.fstat = 0 ∧ State.reset.nbCtl = 0 ∧ State.reset.halted = false ∧ State.reset.fstatCause = 0 ∧
    State.reset.fstatCmd = 0 ∧ State.reset.nbAct = false ∧ State.reset.nbHalf = false ∧
    State.reset.faultLine = false

/-! ### The invariant -/

/-- The reset state has the invariant (memory canonical, FSTAT and NB_CTL of a legal form, R34). -/
def Obligations.ResetStateHasTheInvariant : Prop := State.reset.Inv

/-- Every step keeps the invariant: memory canonical, FSTAT of the form R28 allows, NB_CTL of the form R29 allows, and
while `ACT = 1`, `NB_PAIR <= NB_VAL <= NB_END` and `NB_BASE + NB_END <= 2^64` (R34). -/
def Obligations.StepKeepsTheInvariant : Prop :=
  ∀ s t : State, s.Inv → step s = .next t → t.Inv

/-- R212, R57: in a state with the invariant every step answers a next state, and every command ends in exactly one
response status, OK, a cause code or HALTED: no state a run can reach stops CORE. -/
def Obligations.CoreAlwaysAnswers : Prop :=
  (∀ s : State, s.Inv → ∃ t, step s = .next t) ∧
  ∀ (i : Instr) (s : State), s.Inv →
    ∃ t, exec i s = .next t ∧
      (t.reply = .status 0 ∨ (∃ c, t.reply = .status (causeCode c)) ∨ t.reply = .status 0xF)

/-! ### Faults -/

/-- R211: the seven cause codes. -/
def Obligations.CauseCodesAreAsTabled : Prop :=
  causeCode .illegalCmd = 1 ∧ causeCode .badCursor = 2 ∧ causeCode .overrun = 3 ∧ causeCode .badCount = 4 ∧
    causeCode .reservedCode = 5 ∧ causeCode .endOfValues = 6 ∧ causeCode .nbInactive = 7

/-- R214, whole. Fault entry sets `F`, `CAUSE` and `CMD` and answers the cause, and does only that; and a command on a CORE
that is not halted either runs to its end, answers OK and leaves FSTAT, or takes one fault: `F` is 1,
`CAUSE` the cause, `CMD` the command's byte, the status the cause, and nothing else has changed. -/
def Obligations.FaultEntryIsPrecise : Prop :=
  (∀ (s : State) (c : Cause) (cmd : Byte),
    (s.takeFault c cmd).halted = true ∧ (s.takeFault c cmd).fstatCause = causeCode c ∧
    (s.takeFault c cmd).fstatCmd = cmd ∧
    s.takeFault c cmd = { s with fstat := (s.takeFault c cmd).fstat, reply := .status (causeCode c) }) ∧
  ∀ (i : Instr) (s t : State), s.halted = false → exec i s = .next t →
    (t.reply = .status 0 ∧ t.fstat = s.fstat ∧ t.halted = false) ∨
    ∃ c, t = s.afterFault c i ∧ t.halted = true ∧ t.fstatCause = causeCode c ∧ t.fstatCmd = encode i ∧
      t.reply = .status (causeCode c)

/-- R213: a command raises every cause its row of the table lists, in some state with the invariant. -/
def Obligations.EveryListedFaultCanBeRaised : Prop :=
  ∀ (i : Instr) (c : Cause), c ∈ mayRaise i →
    ∃ s : State, s.Inv ∧ s.halted = false ∧ exec i s = .next (s.afterFault c i)

/-- R213: a command raises no cause that its row of the table does not list. -/
def Obligations.CommandRaisesOnlyItsCauses : Prop :=
  ∀ (i : Instr) (s t : State) (c : Cause), s.halted = false → exec i s = .next t →
    t.reply = .status (causeCode c) → c ∈ mayRaise i

/-- R28: over every step FSTAT changes only by a fault entry of an issued command on a CORE that was not halted, or by
the Reset move. -/
def Obligations.FstatChangesOnlyAtFaultOrReset : Prop :=
  ∀ s t : State, step s = .next t →
    t.fstat = s.fstat ∨
    (s.script.head? = some .reset ∧ t.fstat = 0) ∨
    ∃ cmd c, s.script.head? = some (.issue cmd) ∧ s.halted = false ∧ t.halted = true ∧
      t.fstatCause = causeCode c ∧ t.fstatCmd = cmd

/-! ### What a command reads and writes -/

/-- R27, column "written by": over every step NB_CTL and NB_PAIR and NB_VAL change only by NBNEW, NBNXT or Reset, and
NB_BASE and NB_END only by NBNEW or Reset (which R41 lets leave them with any value). -/
def Obligations.StreamCursorRegistersHaveTheirWriters : Prop :=
  ∀ s t : State, step s = .next t →
    (¬ (t.nbCtl = s.nbCtl ∧ t.nbPair = s.nbPair ∧ t.nbVal = s.nbVal) →
      s.script.head? = some .reset ∨
      ∃ i, s.script.head? = some (.issue (encode i)) ∧ (i = .nbnew ∨ isNext i = true)) ∧
    (¬ (t.nbBase = s.nbBase ∧ t.nbEnd = s.nbEnd) →
      s.script.head? = some .reset ∨ s.script.head? = some (.issue (encode .nbnew)))

/-- R23, whole. Over every command that answers: a register outside its "writes" keeps its value; a register outside its
"reads" has no effect, so that with another value `v` in it the command does the same (and leaves `v` there if it does
not write it, or no trace of it if it does and answers OK); and a command that does not answer OK writes none. Both
runs are under the same free values (notes/assumptions/7.md). -/
def Obligations.RegistersFollowTheTable : Prop :=
  ∀ (i : Instr) (r : Fin 7) (v : Word) (s t : State), exec i s = .next t →
    (r ∉ writesX i → t.getX r = s.getX r) ∧
    (r ∉ readsX i → r ∉ writesX i → exec i (s.setX r v) = .next (t.setX r v)) ∧
    (r ∉ readsX i → r ∈ writesX i → t.reply = .status 0 → exec i (s.setX r v) = .next t) ∧
    (t.reply ≠ .status 0 → t.getX r = s.getX r)

/-- R37, R58, R110: a byte of memory that a command has changed was changed by an encode command and lies at an offset
from the old to the new CPOS, inside the window. -/
def Obligations.WritesStayInTheWindow : Prop :=
  ∀ (i : Instr) (s t : State) (a : Nat), exec i s = .next t → t.mem.read a ≠ s.mem.read a →
    family i = .encoder ∧ s.cursorAddr ≤ a ∧ a < s.cbase.toNat + t.cpos.toNat ∧ t.cpos.toNat ≤ s.clen.toNat

/-- R58: what a command does depends on no byte outside its reach: with any other bytes there it leaves the same
registers and answers the same, and the memory it leaves differs only where the memories differed. Both runs
are under the same free values (notes/assumptions/7.md). -/
def Obligations.ReadsStayInTheWindow : Prop :=
  ∀ (i : Instr) (s t : State) (m : Memory), s.StreamCursorOk → exec i s = .next t →
    (∀ a, s.InReach i a → m.read a = s.mem.read a) →
    ∃ m', exec i { s with mem := m } = .next { t with mem := m' } ∧
      ∀ a, m'.read a = (if t.mem.read a = s.mem.read a then m.read a else t.mem.read a)

/-! ### Nibble Pair Storage -/

/-- R101, whole: NPMK is byte 0x10; it completes in every state that is not halted, with VAL the pair byte of `CODE[3:0]`
(low) and `AUX[3:0]` (high), and nothing else changed; on a halted CORE it answers HALTED. -/
def Obligations.NpmkMakesThePairByte : Prop :=
  encode .npmk = 0x10 ∧
  ∀ s : State,
    (s.halted = false →
      exec .npmk s = .next { s with
        val := BitVec.ofNat 64 (s.aux.toNat % 16 * 16 + s.code.toNat % 16)
        reply := .status 0 }) ∧
    (s.halted = true → exec .npmk s = .next { s with reply := .status 0xF })

/-- R102, R103, whole: NPFST is byte 0x20 and NPSND byte 0x30; they complete in every state that is not halted, with CODE
the low and the high nibble of `VAL[7:0]`, and nothing else changed. -/
def Obligations.NpfstNpsndTakeThePairApart : Prop :=
  encode .npfst = 0x20 ∧ encode .npsnd = 0x30 ∧
  ∀ s : State, s.halted = false →
    exec .npfst s = .next { s with code := BitVec.ofNat 64 (s.val.toNat % 16), reply := .status 0 } ∧
    exec .npsnd s = .next { s with code := BitVec.ofNat 64 (s.val.toNat / 16 % 16), reply := .status 0 }

/-! ### The Encoder -/

/-- R111, R123: PKU.U8, PKU.U16, PKU.U32, PKU.U64 and PKP (the last exactly as PKU.U64), whole. With `u` the low `W`
bytes of VAL and `n` the fewest bytes, at least one, that hold `u`: BAD_CURSOR on an ill-formed cursor; else OVERRUN
where `n` bytes do not fit; else the `n` bytes of `u` at the cursor, lowest first, CODE = `n`, CPOS moved by `n`, every
other byte of memory and every other register as it was. -/
def Obligations.PackUnsignedStoresTheFewestBytes : Prop :=
  ∀ row ∈ [(Instr.pkuU8, 1), (Instr.pkuU16, 2), (Instr.pkuU32, 4), (Instr.pkuU64, 8), (Instr.pkp, 8)],
  ∀ (s : State) (u n : Nat), s.halted = false → u = s.val.toNat % 256 ^ row.2 →
    1 ≤ n → u < 256 ^ n → (∀ k, 1 ≤ k → u < 256 ^ k → n ≤ k) →
    n ≤ row.2 ∧
    (¬ s.CursorWellFormed → exec row.1 s = .next (s.afterFault .badCursor row.1)) ∧
    (s.CursorWellFormed → s.clen.toNat < s.cpos.toNat + n → exec row.1 s = .next (s.afterFault .overrun row.1)) ∧
    (s.CursorWellFormed → s.cpos.toNat + n ≤ s.clen.toNat →
      ∃ m, exec row.1 s = .next { s with
          code := BitVec.ofNat 64 n, cpos := BitVec.ofNat 64 (s.cpos.toNat + n), mem := m, reply := .status 0 } ∧
        (∀ j, j < n → m.read (s.cursorAddr + j) = BitVec.ofNat 8 (u / 256 ^ j)) ∧
        ∀ a, a < s.cursorAddr ∨ s.cursorAddr + n ≤ a → m.read a = s.mem.read a)

/-- R116, R117: PKS.I32 and PKS.I64, whole. With `v` the signed number in the low `T` bits of VAL: if `v >= 0` or
`v <= -(2^(T-8))` the stored quantity is the raw pattern and the code is its byte count `n`; otherwise it is `-v` and
the code is `8 + n`. BAD_CURSOR, OVERRUN and the bytes written as for every encode. -/
def Obligations.PackSignedNegatesBelowTheThreshold : Prop :=
  ∀ row ∈ [(Instr.pksI32, 32), (Instr.pksI64, 64)],
  ∀ (s : State) (v : Int) (u n c : Nat), s.halted = false → v = (s.val.setWidth row.2).toInt →
    ((v ≥ 0 ∨ v ≤ -(2 ^ (row.2 - 8)) → u = s.val.toNat % 2 ^ row.2 ∧ c = n) ∧
     (v < 0 → -(2 ^ (row.2 - 8)) < v → (u : Int) = -v ∧ c = 8 + n)) →
    1 ≤ n → u < 256 ^ n → (∀ k, 1 ≤ k → u < 256 ^ k → n ≤ k) →
    n ≤ row.2 / 8 ∧ (c = 8 + n → n ≤ row.2 / 8 - 1) ∧ (v < 0 → c = n → n = row.2 / 8) ∧
    (¬ s.CursorWellFormed → exec row.1 s = .next (s.afterFault .badCursor row.1)) ∧
    (s.CursorWellFormed → s.clen.toNat < s.cpos.toNat + n → exec row.1 s = .next (s.afterFault .overrun row.1)) ∧
    (s.CursorWellFormed → s.cpos.toNat + n ≤ s.clen.toNat →
      ∃ m, exec row.1 s = .next { s with
          code := BitVec.ofNat 64 c, cpos := BitVec.ofNat 64 (s.cpos.toNat + n), mem := m, reply := .status 0 } ∧
        (∀ j, j < n → m.read (s.cursorAddr + j) = BitVec.ofNat 8 (u / 256 ^ j)) ∧
        ∀ a, a < s.cursorAddr ∨ s.cursorAddr + n ≤ a → m.read a = s.mem.read a)

/-- R120: PKF.F32 and PKF.F64, whole: always `W` bytes, the low `W` bytes of VAL verbatim, CODE = `W`. -/
def Obligations.PackFloatCopiesThePattern : Prop :=
  ∀ row ∈ [(Instr.pkfF32, 4), (Instr.pkfF64, 8)], ∀ s : State, s.halted = false →
    (¬ s.CursorWellFormed → exec row.1 s = .next (s.afterFault .badCursor row.1)) ∧
    (s.CursorWellFormed → s.clen.toNat < s.cpos.toNat + row.2 →
      exec row.1 s = .next (s.afterFault .overrun row.1)) ∧
    (s.CursorWellFormed → s.cpos.toNat + row.2 ≤ s.clen.toNat →
      ∃ m, exec row.1 s = .next { s with
          code := BitVec.ofNat 64 row.2, cpos := BitVec.ofNat 64 (s.cpos.toNat + row.2), mem := m,
          reply := .status 0 } ∧
        (∀ j, j < row.2 → m.read (s.cursorAddr + j) = BitVec.ofNat 8 (s.val.toNat / 256 ^ j)) ∧
        ∀ a, a < s.cursorAddr ∨ s.cursorAddr + row.2 ≤ a → m.read a = s.mem.read a)

/-- R125, R71: after an encode command that answers OK, the effective width of the code in CODE is the number of bytes
CPOS has moved by; the code is never 0, and is at most 8 except from PKS. -/
def Obligations.EncodedWidthIsTheCodesWidth : Prop :=
  ∀ (i : Instr) (s t : State), family i = .encoder → s.halted = false → exec i s = .next t → t.reply = .status 0 →
    t.cpos.toNat = s.cpos.toNat + effWidth (codeField t.code) ∧ 1 ≤ t.code.toNat ∧ t.code.toNat ≤ 15 ∧
    (8 < t.code.toNat → i = .pksI32 ∧ t.code.toNat ≤ 11 ∨ i = .pksI64)

/-! ### The Size Scanner -/

/-- R141, whole: SCAN is byte 0x80; BAD_CURSOR, then BAD_COUNT, then OVERRUN of the array, else VAL is the sum of the
effective widths of the first CNT codes, low nibble of each pair byte first, below 2^32, and nothing else changes. -/
def Obligations.ScanSumsTheEffectiveWidths : Prop :=
  encode .scan = 0x80 ∧
  ∀ s : State, s.halted = false →
    (∀ t, exec .scan s = .next t → t.reply = .status 0 → t.val.toNat < 2 ^ 32) ∧
    (¬ s.CursorWellFormed → exec .scan s = .next (s.afterFault .badCursor .scan)) ∧
    (s.CursorWellFormed → s.cnt.toNat > 2 ^ 28 - 1 → exec .scan s = .next (s.afterFault .badCount .scan)) ∧
    (s.CursorWellFormed → s.cnt.toNat ≤ 2 ^ 28 - 1 → s.clen.toNat < s.cpos.toNat + (s.cnt.toNat + 1) / 2 →
      exec .scan s = .next (s.afterFault .overrun .scan)) ∧
    (s.CursorWellFormed → s.cnt.toNat ≤ 2 ^ 28 - 1 → s.cpos.toNat + (s.cnt.toNat + 1) / 2 ≤ s.clen.toNat →
      exec .scan s = .next { s with
        val := BitVec.ofNat 64 (∑ i ∈ Finset.range s.cnt.toNat,
          let b := (s.mem.read (s.cursorAddr + i / 2)).toNat
          let c := if i % 2 = 0 then b % 16 else b / 16
          if c = 0 then 16 else if c > 8 then c - 8 else c)
        reply := .status 0 })

/-- R140, whole: the scan function is the sum of `effWidth(nib(A, i))`, a code 0 counting 16; the sum pair by pair, with
the first nibble of the trailing pair for an odd count, is the same; and `N <= scanTotal(A, N) <= 16 * N`. -/
def Obligations.ScanTotalIsBoundedAndPairwise : Prop :=
  effWidth 0 = 16 ∧
  ∀ (m : Memory) (A n : Nat),
    n ≤ scanTotal m A n ∧ scanTotal m A n ≤ 16 * n ∧ scanTotal m A 0 = 0 ∧
    scanTotal m A n = (∑ i ∈ Finset.range n, effWidth (nib m A i)) ∧
    scanTotal m A n =
      (∑ j ∈ Finset.range (n / 2),
        (effWidth (pairFirst (m.read (A + j))) + effWidth (pairSecond (m.read (A + j))))) +
      (if n % 2 = 1 then effWidth (pairFirst (m.read (A + n / 2))) else 0)

/-- R143, 90_conflicts.md C8: for odd CNT the high nibble of the last byte of the array has no effect on SCAN or NBNEW. -/
def Obligations.UnusedNibbleHasNoEffect : Prop :=
  ∀ (s t : State) (m : Memory), s.cnt.toNat % 2 = 1 →
    (∀ a, a ≠ s.cursorAddr + s.cnt.toNat / 2 → m.read a = s.mem.read a) →
    (m.read (s.cursorAddr + s.cnt.toNat / 2)).toNat % 16 =
      (s.mem.read (s.cursorAddr + s.cnt.toNat / 2)).toNat % 16 →
    ∀ i, i = .scan ∨ i = .nbnew → exec i s = .next t → exec i { s with mem := m } = .next { t with mem := m }

/-! ### The Decoder -/

/-- R150, R151, R152: UPI.* and UPP, whole. With `c` the low nibble of CODE and `k` its byte count: BAD_CURSOR, then
RESERVED_CODE for `c = 0`, then OVERRUN, else VAL is the stored number, negated modulo 2^64 if `c > 8`, cut to the type
and widened by the type's signedness; CPOS moves by `k`; nothing else changes. -/
def Obligations.UnpackIntegerReadsBack : Prop :=
  ∀ row ∈ [(Instr.upiU8, false, 8), (Instr.upiU16, false, 16), (Instr.upiU32, false, 32), (Instr.upiU64, false, 64),
    (Instr.upiI8, true, 8), (Instr.upiI16, true, 16), (Instr.upiI32, true, 32), (Instr.upiI64, true, 64),
    (Instr.upp, false, 64)],
  ∀ (s : State) (c k : Nat), s.halted = false → c = s.code.toNat % 16 → k = intWidth c →
    (¬ s.CursorWellFormed → exec row.1 s = .next (s.afterFault .badCursor row.1)) ∧
    (s.CursorWellFormed → c = 0 → exec row.1 s = .next (s.afterFault .reservedCode row.1)) ∧
    (s.CursorWellFormed → c ≠ 0 → s.clen.toNat < s.cpos.toNat + k →
      exec row.1 s = .next (s.afterFault .overrun row.1)) ∧
    (s.CursorWellFormed → c ≠ 0 → s.cpos.toNat + k ≤ s.clen.toNat →
      exec row.1 s = .next { s with
        val := widened row.2.1 row.2.2 (accOf c (bytesValue s.mem s.cursorAddr k))
        cpos := BitVec.ofNat 64 (s.cpos.toNat + k)
        reply := .status 0 })

/-- R162, R163: UPF.F32 and UPF.F64, whole. With `c` the low nibble of CODE and `k` = 16 for `c = 0`, else `c`:
BAD_CURSOR, then OVERRUN; where `c` is the type's width, VAL is the stored pattern; where it is not, VAL is some value
of which nothing is said, and the draw counter, the model's own, moves on. RESERVED_CODE is never raised. -/
def Obligations.UnpackFloatKeepsTheDispatch : Prop :=
  ∀ row ∈ [(Instr.upfF32, 4), (Instr.upfF64, 8)],
  ∀ (s : State) (c k : Nat), s.halted = false → c = s.code.toNat % 16 → k = (if c = 0 then 16 else c) →
    (¬ s.CursorWellFormed → exec row.1 s = .next (s.afterFault .badCursor row.1)) ∧
    (s.CursorWellFormed → s.clen.toNat < s.cpos.toNat + k → exec row.1 s = .next (s.afterFault .overrun row.1)) ∧
    (s.CursorWellFormed → s.cpos.toNat + k ≤ s.clen.toNat → c = row.2 →
      exec row.1 s = .next { s with
        val := BitVec.ofNat 64 (bytesValue s.mem s.cursorAddr row.2)
        cpos := BitVec.ofNat 64 (s.cpos.toNat + k)
        reply := .status 0 }) ∧
    (s.CursorWellFormed → s.cpos.toNat + k ≤ s.clen.toNat → c ≠ row.2 →
      ∃ r, exec row.1 s = .next { s with
        val := r
        cpos := BitVec.ofNat 64 (s.cpos.toNat + k)
        reply := .status 0
        draws := s.draws + 1 })

/-- R166: the round trip. If an encode command answers OK, then with CPOS put back and memory and CODE left alone the
decode command of R166's table answers OK, returns to the same CPOS, and VAL is the packed value of that table. -/
def Obligations.RoundTripGivesTheValueBack : Prop :=
  ∀ (i : Instr) (s t : State), family i = .encoder → s.halted = false → exec i s = .next t → t.reply = .status 0 →
    ∃ u, exec (decoderOf i) { t with cpos := s.cpos } = .next u ∧ u.reply = .status 0 ∧ u.cpos = t.cpos ∧
      u.val = packedValue i s.val

/-- R167: a number in the range of I8 (or I16), sign-extended to 32 bits by the host and packed by PKS.I32, is returned
sign-extended by UPI.I8 (or UPI.I16); a value packed by PKU.U64 is returned modulo 2^32 by UPI.U32. -/
def Obligations.NarrowerTypesReadBack : Prop :=
  ∀ (s t : State), s.halted = false → t.reply = .status 0 →
    (∀ row ∈ [(Instr.upiI8, 8), (Instr.upiI16, 16)], ∀ x : Int,
      -(2 ^ (row.2 - 1)) ≤ x → x < 2 ^ (row.2 - 1) → s.val.setWidth 32 = BitVec.ofInt 32 x →
      exec .pksI32 s = .next t →
      ∃ u, exec row.1 { t with cpos := s.cpos } = .next u ∧ u.reply = .status 0 ∧ u.cpos = t.cpos ∧
        u.val = BitVec.ofInt 64 x) ∧
    (exec .pkuU64 s = .next t →
      ∃ u, exec .upiU32 { t with cpos := s.cpos } = .next u ∧ u.reply = .status 0 ∧ u.cpos = t.cpos ∧
        u.val = BitVec.ofNat 64 (s.val.toNat % 2 ^ 32))

/-- R168: a number at or below -(2^24) packed by PKS.I32 is stored under code 4, and UPI.I64 of it gives `2^32 + x`,
not `x`, while UPI.I32 gives `x`. -/
def Obligations.WiderSignedTypeDiffers : Prop :=
  ∀ (s t : State) (x : Int), s.halted = false → x = (s.val.setWidth 32).toInt → x ≤ -(2 ^ 24) →
    exec .pksI32 s = .next t → t.reply = .status 0 →
    t.code = 4 ∧
    (∃ u, exec .upiI64 { t with cpos := s.cpos } = .next u ∧ u.reply = .status 0 ∧ u.val.toInt = 2 ^ 32 + x) ∧
    ∃ u, exec .upiI32 { t with cpos := s.cpos } = .next u ∧ u.reply = .status 0 ∧ u.val.toInt = x

/-! ### The Stream Cursor -/

/-- R183, whole: NBNEW is byte 0xC0; BAD_CURSOR, then BAD_COUNT, then OVERRUN where the array or the value stream
does not fit, else the stream cursor registers as listed, and nothing else changes; an old stream cursor is replaced. -/
def Obligations.NbnewConstructsTheCursor : Prop :=
  encode .nbnew = 0xC0 ∧
  ∀ (s : State) (P total : Nat), s.halted = false → P = (s.cnt.toNat + 1) / 2 →
    total = scanTotal s.mem s.cursorAddr s.cnt.toNat →
    (¬ s.CursorWellFormed → exec .nbnew s = .next (s.afterFault .badCursor .nbnew)) ∧
    (s.CursorWellFormed → s.cnt.toNat > 2 ^ 28 - 1 → exec .nbnew s = .next (s.afterFault .badCount .nbnew)) ∧
    (s.CursorWellFormed → s.cnt.toNat ≤ 2 ^ 28 - 1 → s.clen.toNat < s.cpos.toNat + P →
      exec .nbnew s = .next (s.afterFault .overrun .nbnew)) ∧
    (s.CursorWellFormed → s.cnt.toNat ≤ 2 ^ 28 - 1 → s.cpos.toNat + P ≤ s.clen.toNat →
      s.clen.toNat < s.cpos.toNat + P + total → exec .nbnew s = .next (s.afterFault .overrun .nbnew)) ∧
    (s.CursorWellFormed → s.cnt.toNat ≤ 2 ^ 28 - 1 → s.cpos.toNat + P + total ≤ s.clen.toNat →
      exec .nbnew s = .next { s with
        nbBase := s.cbase
        nbPair := s.cpos
        nbVal := BitVec.ofNat 64 (s.cpos.toNat + P)
        nbEnd := BitVec.ofNat 64 (s.cpos.toNat + P + total)
        nbCtl := 1
        reply := .status 0 })

/-- R190: NBNXT under the integer and pointer tags, whole, in a state with the invariant of R34. NB_INACTIVE, then
END_OF_VALUES, then RESERVED_CODE for code 0, then OVERRUN against NB_END; else VAL is the decoded value, NB_VAL moves
by the byte count, NB_PAIR by one from the second half only, HALF toggles, and nothing else changes. -/
def Obligations.NextIntegerWalksTheStreams : Prop :=
  ∀ row ∈ [(Instr.nbnxtU8, false, 8), (Instr.nbnxtU16, false, 16), (Instr.nbnxtU32, false, 32),
    (Instr.nbnxtU64, false, 64), (Instr.nbnxtI8, true, 8), (Instr.nbnxtI16, true, 16), (Instr.nbnxtI32, true, 32),
    (Instr.nbnxtI64, true, 64), (Instr.nbnxtPtr, false, 64)],
  ∀ (s : State) (c k : Nat), s.halted = false → s.StreamCursorOk → c = s.currentCode → k = intWidth c →
    (s.nbAct = false → exec row.1 s = .next (s.afterFault .nbInactive row.1)) ∧
    (s.nbAct = true → s.nbVal.toNat ≥ s.nbEnd.toNat → exec row.1 s = .next (s.afterFault .endOfValues row.1)) ∧
    (s.nbAct = true → s.nbVal.toNat < s.nbEnd.toNat → c = 0 →
      exec row.1 s = .next (s.afterFault .reservedCode row.1)) ∧
    (s.nbAct = true → s.nbVal.toNat < s.nbEnd.toNat → c ≠ 0 → s.nbEnd.toNat < s.nbVal.toNat + k →
      exec row.1 s = .next (s.afterFault .overrun row.1)) ∧
    (s.nbAct = true → s.nbVal.toNat < s.nbEnd.toNat → c ≠ 0 → s.nbVal.toNat + k ≤ s.nbEnd.toNat →
      exec row.1 s = .next { s.movedPast k with
        val := widened row.2.1 row.2.2 (accOf c (bytesValue s.mem (s.nbBase.toNat + s.nbVal.toNat) k)) })

/-- R190, R199, R200: NBNXT.F32 and NBNXT.F64, whole, in a state with the invariant of R34. NB_INACTIVE, END_OF_VALUES,
OVERRUN; never RESERVED_CODE; the pattern where the code is the type's width, else some value of which nothing is said
(the draw counter, the model's own, moves on); the stream cursor moves by the float byte count either way. -/
def Obligations.NextFloatWalksTheStreams : Prop :=
  ∀ row ∈ [(Instr.nbnxtF32, 4), (Instr.nbnxtF64, 8)],
  ∀ (s : State) (c k : Nat), s.halted = false → s.StreamCursorOk → c = s.currentCode →
    k = (if c = 0 then 16 else c) →
    (s.nbAct = false → exec row.1 s = .next (s.afterFault .nbInactive row.1)) ∧
    (s.nbAct = true → s.nbVal.toNat ≥ s.nbEnd.toNat → exec row.1 s = .next (s.afterFault .endOfValues row.1)) ∧
    (s.nbAct = true → s.nbVal.toNat < s.nbEnd.toNat → s.nbEnd.toNat < s.nbVal.toNat + k →
      exec row.1 s = .next (s.afterFault .overrun row.1)) ∧
    (s.nbAct = true → s.nbVal.toNat + k ≤ s.nbEnd.toNat → c = row.2 →
      exec row.1 s = .next { s.movedPast k with
        val := BitVec.ofNat 64 (bytesValue s.mem (s.nbBase.toNat + s.nbVal.toNat) row.2) }) ∧
    (s.nbAct = true → s.nbVal.toNat + k ≤ s.nbEnd.toNat → c ≠ row.2 →
      ∃ r, exec row.1 s = .next { s.movedPast k with val := r, draws := s.draws + 1 })

/-- R202, whole: NBEND is byte 0xE0; NB_INACTIVE without a stream cursor, else VAL is NB_END and nothing else changes; and
no command but NBNEW changes NB_END or makes the stream cursor active or inactive, so the answer stays the same. -/
def Obligations.NbendReturnsTheEnd : Prop :=
  encode .nbend = 0xE0 ∧
  (∀ s : State, s.halted = false →
    (s.nbAct = false → exec .nbend s = .next (s.afterFault .nbInactive .nbend)) ∧
    (s.nbAct = true → exec .nbend s = .next { s with val := s.nbEnd, reply := .status 0 })) ∧
  ∀ (i : Instr) (s t : State), i ≠ .nbnew → exec i s = .next t → t.nbEnd = s.nbEnd ∧ t.nbAct = s.nbAct

/-- R180, R182, R190: the lockstep walk. After an NBNEW that answers OK on a record of N codes, any list of at most N
NBNXT commands whose float tags meet their own codes and whose other tags meet no code 0 answers OK throughout; after
the i-th the value cursor is at the start of value i by R74, the pair pointer and HALF are at nibble i by R73; and after
all N the value cursor is at NB_END and every NBNXT raises END_OF_VALUES. -/
def Obligations.WalkKeepsTheStreamsInStep : Prop :=
  ∀ (s t : State) (is : List Instr), s.halted = false → exec .nbnew s = .next t → t.reply = .status 0 →
    is.length ≤ s.cnt.toNat →
    (∀ j i, is[j]? = some i →
      (family i = .nextInteger ∧ nib s.mem s.cursorAddr j ≠ 0) ∨
      (i = .nbnxtF32 ∧ nib s.mem s.cursorAddr j = 4) ∨ (i = .nbnxtF64 ∧ nib s.mem s.cursorAddr j = 8)) →
    ∃ vs u, runValues is t = some (vs, u) ∧ vs.length = is.length ∧
      u.nbVal.toNat = s.cpos.toNat + (s.cnt.toNat + 1) / 2 +
        ∑ j ∈ Finset.range is.length, effWidth (nib s.mem s.cursorAddr j) ∧
      u.nbPair.toNat = s.cpos.toNat + is.length / 2 ∧ u.nbHalf = decide (is.length % 2 = 1) ∧
      u.nbEnd = t.nbEnd ∧ u.mem = s.mem ∧
      (is.length = s.cnt.toNat → u.nbVal = u.nbEnd ∧
        ∀ i, isNext i = true → exec i u = .next (u.afterFault .endOfValues i))

/-- R142: if the codes in the array at `A` are the codes N encode commands returned, in order, the scan of the array is
the number of bytes those commands wrote. -/
def Obligations.ScanAgreesWithTheEncoder : Prop :=
  ∀ (l : List (Instr × Word)) (s t : State) (codes : List Nibble) (m : Memory) (A : Nat),
    s.halted = false → (∀ e ∈ l, family e.1 = .encoder) → packAll l s = some (codes, t) →
    (∀ j c, codes[j]? = some c → nib m A j = c) →
    codes.length = l.length ∧ s.cpos.toNat + scanTotal m A l.length = t.cpos.toNat

/-- R203: sequential decode. Values packed by any encode commands from offset `S + ceil_half(N)` on, the codes they
returned stored by the host in the nibble-pair array at offset `S` (in any way that leaves the value stream alone):
NBNEW answers OK, the NBNXT commands with the matching tags return the packed values in order, the stream cursor then
ends exactly at its end, and one more NBNXT raises END_OF_VALUES. -/
def Obligations.StreamCursorReproducesTheSequence : Prop :=
  ∀ (l : List (Instr × Word)) (s t : State) (codes : List Nibble) (m : Memory) (S : Nat),
    s.halted = false → s.CursorWellFormed → l.length ≤ 2 ^ 28 - 1 → (∀ e ∈ l, family e.1 = .encoder) →
    s.cpos.toNat = S + (l.length + 1) / 2 → packAll l s = some (codes, t) →
    (∀ j c, codes[j]? = some c → nib m (s.cbase.toNat + S) j = c) →
    (∀ a, s.cursorAddr ≤ a → a < s.cbase.toNat + t.cpos.toNat → m.read a = t.mem.read a) →
    ∃ w x, execOk .nbnew { t with mem := m, cpos := BitVec.ofNat 64 S, cnt := BitVec.ofNat 64 l.length } = some w ∧
      runValues (l.map fun e => nextOf e.1) w = some (l.map fun e => packedValue e.1 e.2, x) ∧
      x.nbVal = x.nbEnd ∧ x.nbEnd = t.cpos ∧
      ∀ i, isNext i = true → exec i x = .next (x.afterFault .endOfValues i)
end

