-- ==== Sys2Proof/Laws/Memory.lean ====
section
/-! SUPPORT. The laws of memory: a read after a write, the bytes of a wide access, and the canonical form. They hold for
every list, canonical or not, except where the canonical form is the claim. -/

namespace Sys2Proof.Machine

theorem Memory.read_insert (m : Memory) (a a' : Nat) (b : Byte) :
    Memory.read (Memory.insert a b m) a' = if a' = a then b else Memory.read m a' := by
  induction m with
  | nil => simp [Memory.insert, Memory.read, eq_comm]
  | cons e m ih =>
    obtain ⟨k, c⟩ := e
    simp only [Memory.insert]
    split_ifs with h1 h2 h3 h3 h3 <;> simp_all [Memory.read] <;> grind

theorem Memory.read_erase (m : Memory) (a a' : Nat) :
    Memory.read (Memory.erase a m) a' = if a' = a then Config.unlistedByte else Memory.read m a' := by
  induction m with
  | nil => simp [Memory.erase, Memory.read]
  | cons e m ih =>
    obtain ⟨k, c⟩ := e
    simp only [Memory.erase]
    split_ifs with h1 h2 h2 <;> simp_all [Memory.read]
    all_goals grind

/-- A read after a write: the byte written there, every other byte as before (20_memory.md R54). -/
theorem Memory.read_write (m : Memory) (a a' : Nat) (b : Byte) :
    Memory.read (Memory.write m a b) a' = if a' = a then b else Memory.read m a' := by
  unfold Memory.write
  split_ifs with h h' h' <;> simp_all [Memory.read_insert, Memory.read_erase]

/-- A byte after a wide write: byte `j` of the value inside, as before outside (00_scope.md R12). -/
theorem Memory.read_writeLE (m : Memory) (a n v a' : Nat) :
    Memory.read (Memory.writeLE m a n v) a' =
      if a ≤ a' ∧ a' < a + n then BitVec.ofNat 8 (v / 256 ^ (a' - a)) else Memory.read m a' := by
  induction n generalizing m a v with
  | zero => simp [Memory.writeLE]
  | succ n ih =>
    rw [Memory.writeLE, ih, Memory.read_write]
    by_cases h : a' = a
    · subst h; simp
    · by_cases h' : a + 1 ≤ a' ∧ a' < a + 1 + n
      · have e : a' - a = (a' - (a + 1)) + 1 := by omega
        rw [if_pos h', if_pos (by omega), e, pow_succ, Nat.div_div_eq_div_mul, Nat.mul_comm 256]
      · rw [if_neg h', if_neg h, if_neg (by omega)]

/-- A wide read depends on the bytes it reads alone. -/
theorem Memory.readLE_congr (m m' : Memory) (a n : Nat)
    (h : ∀ a', a ≤ a' → a' < a + n → Memory.read m' a' = Memory.read m a') :
    Memory.readLE m' a n = Memory.readLE m a n := by
  induction n generalizing a with
  | zero => rfl
  | succ n ih =>
    rw [Memory.readLE, Memory.readLE, h a (by omega) (by omega), ih]
    intro a' h1 h2
    exact h a' (by omega) (by omega)

theorem Memory.readLE_lt (m : Memory) (a n : Nat) : Memory.readLE m a n < 256 ^ n := by
  induction n generalizing a with
  | zero => simp [Memory.readLE]
  | succ n ih =>
    have := ih (a + 1)
    have hb := (Memory.read m a).isLt
    rw [Memory.readLE, pow_succ]
    omega

/-- The bytes just written read back as the value, cut to them. -/
theorem Memory.readLE_writeLE_same (m : Memory) (a n v : Nat) :
    Memory.readLE (Memory.writeLE m a n v) a n = v % 256 ^ n := by
  induction n generalizing m a v with
  | zero => simp [Memory.readLE, Nat.mod_one]
  | succ n ih =>
    rw [Memory.readLE, Memory.writeLE, ih, Memory.read_writeLE, if_neg (by omega), Memory.read_write, if_pos rfl,
      pow_succ, Nat.mul_comm (256 ^ n) 256, Nat.mod_mul]
    simp

/-- A wide read is the sum of its bytes by place. -/
theorem Memory.readLE_eq_sum (m : Memory) (a n : Nat) :
    Memory.readLE m a n = ∑ j ∈ Finset.range n, (Memory.read m (a + j)).toNat * 256 ^ j := by
  induction n generalizing a with
  | zero => rfl
  | succ n ih =>
    rw [Memory.readLE, ih, Finset.sum_range_succ', Finset.mul_sum, Nat.add_comm]
    simp only [Nat.add_zero, pow_zero, Nat.mul_one]
    congr 1
    apply Finset.sum_congr rfl
    intro j _
    rw [show a + 1 + j = a + (j + 1) by omega, pow_succ]
    ring

/-! ### The canonical form -/

theorem Memory.wfFrom_cons (lo a : Nat) (b : Byte) (m : Memory) :
    Memory.wfFrom lo ((a, b) :: m) = true ↔
      lo ≤ a ∧ a < Config.addrLimit ∧ b ≠ Config.unlistedByte ∧ Memory.wfFrom (a + 1) m = true := by
  simp [Memory.wfFrom, and_assoc]

theorem Memory.wfFrom_mono {lo lo' : Nat} (h : lo' ≤ lo) {m : Memory} (hm : Memory.wfFrom lo m = true) :
    Memory.wfFrom lo' m = true := by
  cases m with
  | nil => rfl
  | cons e m =>
    obtain ⟨k, c⟩ := e
    rw [Memory.wfFrom_cons] at hm ⊢
    exact ⟨by omega, hm.2⟩

theorem Memory.wfFrom_erase {lo : Nat} (a : Nat) {m : Memory} (hm : Memory.wfFrom lo m = true) :
    Memory.wfFrom lo (Memory.erase a m) = true := by
  induction m generalizing lo with
  | nil => rfl
  | cons e m ih =>
    obtain ⟨k, c⟩ := e
    rw [Memory.wfFrom_cons] at hm
    simp only [Memory.erase]
    split_ifs
    · exact ih (Memory.wfFrom_mono (by omega) hm.2.2.2)
    · rw [Memory.wfFrom_cons]
      exact ⟨hm.1, hm.2.1, hm.2.2.1, ih hm.2.2.2⟩

theorem Memory.wfFrom_insert {lo a : Nat} {b : Byte} {m : Memory} (hlo : lo ≤ a) (ha : a < Config.addrLimit)
    (hb : b ≠ Config.unlistedByte) (hm : Memory.wfFrom lo m = true) :
    Memory.wfFrom lo (Memory.insert a b m) = true := by
  induction m generalizing lo with
  | nil => exact (Memory.wfFrom_cons ..).mpr ⟨hlo, ha, hb, rfl⟩
  | cons e m ih =>
    obtain ⟨k, c⟩ := e
    rw [Memory.wfFrom_cons] at hm
    simp only [Memory.insert]
    split_ifs with h1 h2
    · simp only [Memory.wfFrom_cons]
      exact ⟨hlo, ha, hb, by omega, hm.2⟩
    · subst h2
      exact (Memory.wfFrom_cons ..).mpr ⟨hlo, ha, hb, hm.2.2.2⟩
    · rw [Memory.wfFrom_cons]
      exact ⟨hm.1, hm.2.1, hm.2.2.1, ih (by omega) hm.2.2.2⟩

/-- A write below 2^64 keeps the canonical form. -/
theorem Memory.wf_write {m : Memory} {a : Nat} (b : Byte) (ha : a < Config.addrLimit) (hm : Memory.wf m = true) :
    Memory.wf (Memory.write m a b) = true := by
  unfold Memory.write Memory.wf
  split_ifs with h
  · exact Memory.wfFrom_erase a hm
  · exact Memory.wfFrom_insert (Nat.zero_le a) ha h hm

/-- A wide write below 2^64 keeps the canonical form. -/
theorem Memory.wf_writeLE {m : Memory} {a n : Nat} (v : Nat) (ha : a + n ≤ Config.addrLimit)
    (hm : Memory.wf m = true) : Memory.wf (Memory.writeLE m a n v) = true := by
  induction n generalizing m a v with
  | zero => exact hm
  | succ n ih => exact ih _ (by omega) (Memory.wf_write _ (by omega) hm)

/-- The memory of the reset state is in canonical form. -/
theorem Memory.wf_reset : Memory.wf State.reset.mem = true := rfl

/-- Equal memories are equal lists: canonical memories that read the same everywhere are the same data. -/
theorem Memory.wfFrom_ext {lo : Nat} {m m' : Memory} (hm : Memory.wfFrom lo m = true)
    (hm' : Memory.wfFrom lo m' = true) (h : ∀ a, Memory.read m a = Memory.read m' a) : m = m' := by
  have below : ∀ (lo : Nat) (m : Memory), Memory.wfFrom lo m = true → ∀ a < lo, Memory.read m a = Config.unlistedByte := by
    intro lo m
    induction m generalizing lo with
    | nil => intros; rfl
    | cons e m ih =>
      obtain ⟨k, c⟩ := e
      intro hw a ha
      rw [Memory.wfFrom_cons] at hw
      rw [Memory.read, if_neg (by omega)]
      exact ih _ hw.2.2.2 a (by omega)
  induction m generalizing lo m' with
  | nil =>
    cases m' with
    | nil => rfl
    | cons e m' =>
      obtain ⟨k, c⟩ := e
      rw [Memory.wfFrom_cons] at hm'
      have := h k
      simp [Memory.read] at this
      exact absurd this.symm hm'.2.2.1
  | cons e m ih =>
    obtain ⟨k, c⟩ := e
    have hw := (Memory.wfFrom_cons ..).mp hm
    cases m' with
    | nil =>
      have := h k
      simp [Memory.read] at this
      exact absurd this hw.2.2.1
    | cons e' m' =>
      obtain ⟨k', c'⟩ := e'
      have hw' := (Memory.wfFrom_cons ..).mp hm'
      have key : k = k' := by
        rcases Nat.lt_trichotomy k k' with hlt | heq | hgt
        · have h1 := h k
          rw [Memory.read, if_pos rfl, Memory.read, if_neg (by omega), below _ _ hw'.2.2.2 k (by omega)] at h1
          exact absurd h1 hw.2.2.1
        · exact heq
        · have h1 := h k'
          rw [Memory.read, if_neg (by omega), below _ _ hw.2.2.2 k' (by omega), Memory.read, if_pos rfl] at h1
          exact absurd h1.symm hw'.2.2.1
      subst key
      have hc : c = c' := by simpa [Memory.read] using h k
      subst hc
      congr 1
      refine ih hw.2.2.2 hw'.2.2.2 fun a => ?_
      by_cases ha : k = a
      · subst ha
        rw [below _ _ hw.2.2.2 k (by omega), below _ _ hw'.2.2.2 k (by omega)]
      · simpa [Memory.read, ha] using h a

end Sys2Proof.Machine
end

