-- ==== Sys2Proof/Laws/State.lean ====
section
/-! SUPPORT. One lemma per field per named update of State, so that no proof unfolds a record update. -/

namespace Sys2Proof.Machine

/-! ### setVal -/

@[simp] theorem State.setVal_val (s : State) (v : Word) : (s.setVal v).val = v := rfl
@[simp] theorem State.setVal_code (s : State) (v : Word) : (s.setVal v).code = s.code := rfl
@[simp] theorem State.setVal_cbase (s : State) (v : Word) : (s.setVal v).cbase = s.cbase := rfl
@[simp] theorem State.setVal_clen (s : State) (v : Word) : (s.setVal v).clen = s.clen := rfl
@[simp] theorem State.setVal_cpos (s : State) (v : Word) : (s.setVal v).cpos = s.cpos := rfl
@[simp] theorem State.setVal_cnt (s : State) (v : Word) : (s.setVal v).cnt = s.cnt := rfl
@[simp] theorem State.setVal_aux (s : State) (v : Word) : (s.setVal v).aux = s.aux := rfl
@[simp] theorem State.setVal_fstat (s : State) (v : Word) : (s.setVal v).fstat = s.fstat := rfl
@[simp] theorem State.setVal_nbCtl (s : State) (v : Word) : (s.setVal v).nbCtl = s.nbCtl := rfl
@[simp] theorem State.setVal_nbBase (s : State) (v : Word) : (s.setVal v).nbBase = s.nbBase := rfl
@[simp] theorem State.setVal_nbPair (s : State) (v : Word) : (s.setVal v).nbPair = s.nbPair := rfl
@[simp] theorem State.setVal_nbVal (s : State) (v : Word) : (s.setVal v).nbVal = s.nbVal := rfl
@[simp] theorem State.setVal_nbEnd (s : State) (v : Word) : (s.setVal v).nbEnd = s.nbEnd := rfl
@[simp] theorem State.setVal_mem (s : State) (v : Word) : (s.setVal v).mem = s.mem := rfl
@[simp] theorem State.setVal_reply (s : State) (v : Word) : (s.setVal v).reply = s.reply := rfl
@[simp] theorem State.setVal_script (s : State) (v : Word) : (s.setVal v).script = s.script := rfl
@[simp] theorem State.setVal_draws (s : State) (v : Word) : (s.setVal v).draws = s.draws := rfl

/-! ### setCode -/

@[simp] theorem State.setCode_val (s : State) (v : Word) : (s.setCode v).val = s.val := rfl
@[simp] theorem State.setCode_code (s : State) (v : Word) : (s.setCode v).code = v := rfl
@[simp] theorem State.setCode_cbase (s : State) (v : Word) : (s.setCode v).cbase = s.cbase := rfl
@[simp] theorem State.setCode_clen (s : State) (v : Word) : (s.setCode v).clen = s.clen := rfl
@[simp] theorem State.setCode_cpos (s : State) (v : Word) : (s.setCode v).cpos = s.cpos := rfl
@[simp] theorem State.setCode_cnt (s : State) (v : Word) : (s.setCode v).cnt = s.cnt := rfl
@[simp] theorem State.setCode_aux (s : State) (v : Word) : (s.setCode v).aux = s.aux := rfl
@[simp] theorem State.setCode_fstat (s : State) (v : Word) : (s.setCode v).fstat = s.fstat := rfl
@[simp] theorem State.setCode_nbCtl (s : State) (v : Word) : (s.setCode v).nbCtl = s.nbCtl := rfl
@[simp] theorem State.setCode_nbBase (s : State) (v : Word) : (s.setCode v).nbBase = s.nbBase := rfl
@[simp] theorem State.setCode_nbPair (s : State) (v : Word) : (s.setCode v).nbPair = s.nbPair := rfl
@[simp] theorem State.setCode_nbVal (s : State) (v : Word) : (s.setCode v).nbVal = s.nbVal := rfl
@[simp] theorem State.setCode_nbEnd (s : State) (v : Word) : (s.setCode v).nbEnd = s.nbEnd := rfl
@[simp] theorem State.setCode_mem (s : State) (v : Word) : (s.setCode v).mem = s.mem := rfl
@[simp] theorem State.setCode_reply (s : State) (v : Word) : (s.setCode v).reply = s.reply := rfl
@[simp] theorem State.setCode_script (s : State) (v : Word) : (s.setCode v).script = s.script := rfl
@[simp] theorem State.setCode_draws (s : State) (v : Word) : (s.setCode v).draws = s.draws := rfl

/-! ### advance -/

@[simp] theorem State.advance_val (s : State) (k : Nat) : (s.advance k).val = s.val := rfl
@[simp] theorem State.advance_code (s : State) (k : Nat) : (s.advance k).code = s.code := rfl
@[simp] theorem State.advance_cbase (s : State) (k : Nat) : (s.advance k).cbase = s.cbase := rfl
@[simp] theorem State.advance_clen (s : State) (k : Nat) : (s.advance k).clen = s.clen := rfl
@[simp] theorem State.advance_cpos (s : State) (k : Nat) : (s.advance k).cpos = BitVec.ofNat 64 (s.cpos.toNat + k) := rfl
@[simp] theorem State.advance_cnt (s : State) (k : Nat) : (s.advance k).cnt = s.cnt := rfl
@[simp] theorem State.advance_aux (s : State) (k : Nat) : (s.advance k).aux = s.aux := rfl
@[simp] theorem State.advance_fstat (s : State) (k : Nat) : (s.advance k).fstat = s.fstat := rfl
@[simp] theorem State.advance_nbCtl (s : State) (k : Nat) : (s.advance k).nbCtl = s.nbCtl := rfl
@[simp] theorem State.advance_nbBase (s : State) (k : Nat) : (s.advance k).nbBase = s.nbBase := rfl
@[simp] theorem State.advance_nbPair (s : State) (k : Nat) : (s.advance k).nbPair = s.nbPair := rfl
@[simp] theorem State.advance_nbVal (s : State) (k : Nat) : (s.advance k).nbVal = s.nbVal := rfl
@[simp] theorem State.advance_nbEnd (s : State) (k : Nat) : (s.advance k).nbEnd = s.nbEnd := rfl
@[simp] theorem State.advance_mem (s : State) (k : Nat) : (s.advance k).mem = s.mem := rfl
@[simp] theorem State.advance_reply (s : State) (k : Nat) : (s.advance k).reply = s.reply := rfl
@[simp] theorem State.advance_script (s : State) (k : Nat) : (s.advance k).script = s.script := rfl
@[simp] theorem State.advance_draws (s : State) (k : Nat) : (s.advance k).draws = s.draws := rfl

/-! ### setMem -/

@[simp] theorem State.setMem_val (s : State) (m : Memory) : (s.setMem m).val = s.val := rfl
@[simp] theorem State.setMem_code (s : State) (m : Memory) : (s.setMem m).code = s.code := rfl
@[simp] theorem State.setMem_cbase (s : State) (m : Memory) : (s.setMem m).cbase = s.cbase := rfl
@[simp] theorem State.setMem_clen (s : State) (m : Memory) : (s.setMem m).clen = s.clen := rfl
@[simp] theorem State.setMem_cpos (s : State) (m : Memory) : (s.setMem m).cpos = s.cpos := rfl
@[simp] theorem State.setMem_cnt (s : State) (m : Memory) : (s.setMem m).cnt = s.cnt := rfl
@[simp] theorem State.setMem_aux (s : State) (m : Memory) : (s.setMem m).aux = s.aux := rfl
@[simp] theorem State.setMem_fstat (s : State) (m : Memory) : (s.setMem m).fstat = s.fstat := rfl
@[simp] theorem State.setMem_nbCtl (s : State) (m : Memory) : (s.setMem m).nbCtl = s.nbCtl := rfl
@[simp] theorem State.setMem_nbBase (s : State) (m : Memory) : (s.setMem m).nbBase = s.nbBase := rfl
@[simp] theorem State.setMem_nbPair (s : State) (m : Memory) : (s.setMem m).nbPair = s.nbPair := rfl
@[simp] theorem State.setMem_nbVal (s : State) (m : Memory) : (s.setMem m).nbVal = s.nbVal := rfl
@[simp] theorem State.setMem_nbEnd (s : State) (m : Memory) : (s.setMem m).nbEnd = s.nbEnd := rfl
@[simp] theorem State.setMem_mem (s : State) (m : Memory) : (s.setMem m).mem = m := rfl
@[simp] theorem State.setMem_reply (s : State) (m : Memory) : (s.setMem m).reply = s.reply := rfl
@[simp] theorem State.setMem_script (s : State) (m : Memory) : (s.setMem m).script = s.script := rfl
@[simp] theorem State.setMem_draws (s : State) (m : Memory) : (s.setMem m).draws = s.draws := rfl

/-! ### answer -/

@[simp] theorem State.answer_val (s : State) (r : Reply) : (s.answer r).val = s.val := rfl
@[simp] theorem State.answer_code (s : State) (r : Reply) : (s.answer r).code = s.code := rfl
@[simp] theorem State.answer_cbase (s : State) (r : Reply) : (s.answer r).cbase = s.cbase := rfl
@[simp] theorem State.answer_clen (s : State) (r : Reply) : (s.answer r).clen = s.clen := rfl
@[simp] theorem State.answer_cpos (s : State) (r : Reply) : (s.answer r).cpos = s.cpos := rfl
@[simp] theorem State.answer_cnt (s : State) (r : Reply) : (s.answer r).cnt = s.cnt := rfl
@[simp] theorem State.answer_aux (s : State) (r : Reply) : (s.answer r).aux = s.aux := rfl
@[simp] theorem State.answer_fstat (s : State) (r : Reply) : (s.answer r).fstat = s.fstat := rfl
@[simp] theorem State.answer_nbCtl (s : State) (r : Reply) : (s.answer r).nbCtl = s.nbCtl := rfl
@[simp] theorem State.answer_nbBase (s : State) (r : Reply) : (s.answer r).nbBase = s.nbBase := rfl
@[simp] theorem State.answer_nbPair (s : State) (r : Reply) : (s.answer r).nbPair = s.nbPair := rfl
@[simp] theorem State.answer_nbVal (s : State) (r : Reply) : (s.answer r).nbVal = s.nbVal := rfl
@[simp] theorem State.answer_nbEnd (s : State) (r : Reply) : (s.answer r).nbEnd = s.nbEnd := rfl
@[simp] theorem State.answer_mem (s : State) (r : Reply) : (s.answer r).mem = s.mem := rfl
@[simp] theorem State.answer_reply (s : State) (r : Reply) : (s.answer r).reply = r := rfl
@[simp] theorem State.answer_script (s : State) (r : Reply) : (s.answer r).script = s.script := rfl
@[simp] theorem State.answer_draws (s : State) (r : Reply) : (s.answer r).draws = s.draws := rfl

/-! ### drawn -/

@[simp] theorem State.drawn_val (s : State) (n : Nat) : (s.drawn n).val = s.val := rfl
@[simp] theorem State.drawn_code (s : State) (n : Nat) : (s.drawn n).code = s.code := rfl
@[simp] theorem State.drawn_cbase (s : State) (n : Nat) : (s.drawn n).cbase = s.cbase := rfl
@[simp] theorem State.drawn_clen (s : State) (n : Nat) : (s.drawn n).clen = s.clen := rfl
@[simp] theorem State.drawn_cpos (s : State) (n : Nat) : (s.drawn n).cpos = s.cpos := rfl
@[simp] theorem State.drawn_cnt (s : State) (n : Nat) : (s.drawn n).cnt = s.cnt := rfl
@[simp] theorem State.drawn_aux (s : State) (n : Nat) : (s.drawn n).aux = s.aux := rfl
@[simp] theorem State.drawn_fstat (s : State) (n : Nat) : (s.drawn n).fstat = s.fstat := rfl
@[simp] theorem State.drawn_nbCtl (s : State) (n : Nat) : (s.drawn n).nbCtl = s.nbCtl := rfl
@[simp] theorem State.drawn_nbBase (s : State) (n : Nat) : (s.drawn n).nbBase = s.nbBase := rfl
@[simp] theorem State.drawn_nbPair (s : State) (n : Nat) : (s.drawn n).nbPair = s.nbPair := rfl
@[simp] theorem State.drawn_nbVal (s : State) (n : Nat) : (s.drawn n).nbVal = s.nbVal := rfl
@[simp] theorem State.drawn_nbEnd (s : State) (n : Nat) : (s.drawn n).nbEnd = s.nbEnd := rfl
@[simp] theorem State.drawn_mem (s : State) (n : Nat) : (s.drawn n).mem = s.mem := rfl
@[simp] theorem State.drawn_reply (s : State) (n : Nat) : (s.drawn n).reply = s.reply := rfl
@[simp] theorem State.drawn_script (s : State) (n : Nat) : (s.drawn n).script = s.script := rfl
@[simp] theorem State.drawn_draws (s : State) (n : Nat) : (s.drawn n).draws = s.draws + n := rfl

/-! ### takeFault -/

@[simp] theorem State.takeFault_val (s : State) (c : Cause) (cmd : Byte) : (s.takeFault c cmd).val = s.val := rfl
@[simp] theorem State.takeFault_code (s : State) (c : Cause) (cmd : Byte) : (s.takeFault c cmd).code = s.code := rfl
@[simp] theorem State.takeFault_cbase (s : State) (c : Cause) (cmd : Byte) : (s.takeFault c cmd).cbase = s.cbase := rfl
@[simp] theorem State.takeFault_clen (s : State) (c : Cause) (cmd : Byte) : (s.takeFault c cmd).clen = s.clen := rfl
@[simp] theorem State.takeFault_cpos (s : State) (c : Cause) (cmd : Byte) : (s.takeFault c cmd).cpos = s.cpos := rfl
@[simp] theorem State.takeFault_cnt (s : State) (c : Cause) (cmd : Byte) : (s.takeFault c cmd).cnt = s.cnt := rfl
@[simp] theorem State.takeFault_aux (s : State) (c : Cause) (cmd : Byte) : (s.takeFault c cmd).aux = s.aux := rfl
@[simp] theorem State.takeFault_fstat (s : State) (c : Cause) (cmd : Byte) : (s.takeFault c cmd).fstat = fstatWord c cmd := rfl
@[simp] theorem State.takeFault_nbCtl (s : State) (c : Cause) (cmd : Byte) : (s.takeFault c cmd).nbCtl = s.nbCtl := rfl
@[simp] theorem State.takeFault_nbBase (s : State) (c : Cause) (cmd : Byte) : (s.takeFault c cmd).nbBase = s.nbBase := rfl
@[simp] theorem State.takeFault_nbPair (s : State) (c : Cause) (cmd : Byte) : (s.takeFault c cmd).nbPair = s.nbPair := rfl
@[simp] theorem State.takeFault_nbVal (s : State) (c : Cause) (cmd : Byte) : (s.takeFault c cmd).nbVal = s.nbVal := rfl
@[simp] theorem State.takeFault_nbEnd (s : State) (c : Cause) (cmd : Byte) : (s.takeFault c cmd).nbEnd = s.nbEnd := rfl
@[simp] theorem State.takeFault_mem (s : State) (c : Cause) (cmd : Byte) : (s.takeFault c cmd).mem = s.mem := rfl
@[simp] theorem State.takeFault_reply (s : State) (c : Cause) (cmd : Byte) : (s.takeFault c cmd).reply = .status (causeCode c) := rfl
@[simp] theorem State.takeFault_script (s : State) (c : Cause) (cmd : Byte) : (s.takeFault c cmd).script = s.script := rfl
@[simp] theorem State.takeFault_draws (s : State) (c : Cause) (cmd : Byte) : (s.takeFault c cmd).draws = s.draws := rfl

/-! ### openCursor -/

@[simp] theorem State.openCursor_val (s : State) (P total : Nat) : (s.openCursor P total).val = s.val := rfl
@[simp] theorem State.openCursor_code (s : State) (P total : Nat) : (s.openCursor P total).code = s.code := rfl
@[simp] theorem State.openCursor_cbase (s : State) (P total : Nat) : (s.openCursor P total).cbase = s.cbase := rfl
@[simp] theorem State.openCursor_clen (s : State) (P total : Nat) : (s.openCursor P total).clen = s.clen := rfl
@[simp] theorem State.openCursor_cpos (s : State) (P total : Nat) : (s.openCursor P total).cpos = s.cpos := rfl
@[simp] theorem State.openCursor_cnt (s : State) (P total : Nat) : (s.openCursor P total).cnt = s.cnt := rfl
@[simp] theorem State.openCursor_aux (s : State) (P total : Nat) : (s.openCursor P total).aux = s.aux := rfl
@[simp] theorem State.openCursor_fstat (s : State) (P total : Nat) : (s.openCursor P total).fstat = s.fstat := rfl
@[simp] theorem State.openCursor_nbCtl (s : State) (P total : Nat) : (s.openCursor P total).nbCtl = nbCtlWord true false := rfl
@[simp] theorem State.openCursor_nbBase (s : State) (P total : Nat) : (s.openCursor P total).nbBase = s.cbase := rfl
@[simp] theorem State.openCursor_nbPair (s : State) (P total : Nat) : (s.openCursor P total).nbPair = s.cpos := rfl
@[simp] theorem State.openCursor_nbVal (s : State) (P total : Nat) : (s.openCursor P total).nbVal = BitVec.ofNat 64 (s.cpos.toNat + P) := rfl
@[simp] theorem State.openCursor_nbEnd (s : State) (P total : Nat) : (s.openCursor P total).nbEnd = BitVec.ofNat 64 (s.cpos.toNat + P + total) := rfl
@[simp] theorem State.openCursor_mem (s : State) (P total : Nat) : (s.openCursor P total).mem = s.mem := rfl
@[simp] theorem State.openCursor_reply (s : State) (P total : Nat) : (s.openCursor P total).reply = s.reply := rfl
@[simp] theorem State.openCursor_script (s : State) (P total : Nat) : (s.openCursor P total).script = s.script := rfl
@[simp] theorem State.openCursor_draws (s : State) (P total : Nat) : (s.openCursor P total).draws = s.draws := rfl

/-! ### stepCursor -/

@[simp] theorem State.stepCursor_val (s : State) (k : Nat) : (s.stepCursor k).val = s.val := rfl
@[simp] theorem State.stepCursor_code (s : State) (k : Nat) : (s.stepCursor k).code = s.code := rfl
@[simp] theorem State.stepCursor_cbase (s : State) (k : Nat) : (s.stepCursor k).cbase = s.cbase := rfl
@[simp] theorem State.stepCursor_clen (s : State) (k : Nat) : (s.stepCursor k).clen = s.clen := rfl
@[simp] theorem State.stepCursor_cpos (s : State) (k : Nat) : (s.stepCursor k).cpos = s.cpos := rfl
@[simp] theorem State.stepCursor_cnt (s : State) (k : Nat) : (s.stepCursor k).cnt = s.cnt := rfl
@[simp] theorem State.stepCursor_aux (s : State) (k : Nat) : (s.stepCursor k).aux = s.aux := rfl
@[simp] theorem State.stepCursor_fstat (s : State) (k : Nat) : (s.stepCursor k).fstat = s.fstat := rfl
@[simp] theorem State.stepCursor_nbCtl (s : State) (k : Nat) : (s.stepCursor k).nbCtl = nbCtlWord s.nbAct (!s.nbHalf) := rfl
@[simp] theorem State.stepCursor_nbBase (s : State) (k : Nat) : (s.stepCursor k).nbBase = s.nbBase := rfl
@[simp] theorem State.stepCursor_nbPair (s : State) (k : Nat) : (s.stepCursor k).nbPair = (if s.nbHalf then BitVec.ofNat 64 (s.nbPair.toNat + 1) else s.nbPair) := rfl
@[simp] theorem State.stepCursor_nbVal (s : State) (k : Nat) : (s.stepCursor k).nbVal = BitVec.ofNat 64 (s.nbVal.toNat + k) := rfl
@[simp] theorem State.stepCursor_nbEnd (s : State) (k : Nat) : (s.stepCursor k).nbEnd = s.nbEnd := rfl
@[simp] theorem State.stepCursor_mem (s : State) (k : Nat) : (s.stepCursor k).mem = s.mem := rfl
@[simp] theorem State.stepCursor_reply (s : State) (k : Nat) : (s.stepCursor k).reply = s.reply := rfl
@[simp] theorem State.stepCursor_script (s : State) (k : Nat) : (s.stepCursor k).script = s.script := rfl
@[simp] theorem State.stepCursor_draws (s : State) (k : Nat) : (s.stepCursor k).draws = s.draws := rfl

/-! ### setResult -/

@[simp] theorem State.setResult_code (s : State) (r : Option Word) : (s.setResult r).code = s.code := by
  cases r <;> rfl
@[simp] theorem State.setResult_cbase (s : State) (r : Option Word) : (s.setResult r).cbase = s.cbase := by
  cases r <;> rfl
@[simp] theorem State.setResult_clen (s : State) (r : Option Word) : (s.setResult r).clen = s.clen := by
  cases r <;> rfl
@[simp] theorem State.setResult_cpos (s : State) (r : Option Word) : (s.setResult r).cpos = s.cpos := by
  cases r <;> rfl
@[simp] theorem State.setResult_cnt (s : State) (r : Option Word) : (s.setResult r).cnt = s.cnt := by
  cases r <;> rfl
@[simp] theorem State.setResult_aux (s : State) (r : Option Word) : (s.setResult r).aux = s.aux := by
  cases r <;> rfl
@[simp] theorem State.setResult_fstat (s : State) (r : Option Word) : (s.setResult r).fstat = s.fstat := by
  cases r <;> rfl
@[simp] theorem State.setResult_nbCtl (s : State) (r : Option Word) : (s.setResult r).nbCtl = s.nbCtl := by
  cases r <;> rfl
@[simp] theorem State.setResult_nbBase (s : State) (r : Option Word) : (s.setResult r).nbBase = s.nbBase := by
  cases r <;> rfl
@[simp] theorem State.setResult_nbPair (s : State) (r : Option Word) : (s.setResult r).nbPair = s.nbPair := by
  cases r <;> rfl
@[simp] theorem State.setResult_nbVal (s : State) (r : Option Word) : (s.setResult r).nbVal = s.nbVal := by
  cases r <;> rfl
@[simp] theorem State.setResult_nbEnd (s : State) (r : Option Word) : (s.setResult r).nbEnd = s.nbEnd := by
  cases r <;> rfl
@[simp] theorem State.setResult_mem (s : State) (r : Option Word) : (s.setResult r).mem = s.mem := by
  cases r <;> rfl
@[simp] theorem State.setResult_reply (s : State) (r : Option Word) : (s.setResult r).reply = s.reply := by
  cases r <;> rfl
@[simp] theorem State.setResult_script (s : State) (r : Option Word) : (s.setResult r).script = s.script := by
  cases r <;> rfl
@[simp] theorem State.setResult_some_val (s : State) (v : Word) : (s.setResult (some v)).val = v := rfl
@[simp] theorem State.setResult_none_val (s : State) : (s.setResult none).val = Config.anyWord s.draws := rfl
@[simp] theorem State.setResult_some_draws (s : State) (v : Word) : (s.setResult (some v)).draws = s.draws := rfl
@[simp] theorem State.setResult_none_draws (s : State) : (s.setResult none).draws = s.draws + 1 := rfl

/-! ### setX and getX -/

@[simp] theorem State.getX_setX_same (s : State) (i : Fin 7) (v : Word) : (s.setX i v).getX i = v := by
  fin_cases i <;> rfl

theorem State.getX_setX_other (s : State) (i j : Fin 7) (v : Word) (h : j ≠ i) : (s.setX i v).getX j = s.getX j := by
  fin_cases i <;> fin_cases j <;> first | rfl | exact absurd rfl h

@[simp] theorem State.setX_fstat (s : State) (i : Fin 7) (v : Word) : (s.setX i v).fstat = s.fstat := by
  fin_cases i <;> rfl
@[simp] theorem State.setX_nbCtl (s : State) (i : Fin 7) (v : Word) : (s.setX i v).nbCtl = s.nbCtl := by
  fin_cases i <;> rfl
@[simp] theorem State.setX_nbBase (s : State) (i : Fin 7) (v : Word) : (s.setX i v).nbBase = s.nbBase := by
  fin_cases i <;> rfl
@[simp] theorem State.setX_nbPair (s : State) (i : Fin 7) (v : Word) : (s.setX i v).nbPair = s.nbPair := by
  fin_cases i <;> rfl
@[simp] theorem State.setX_nbVal (s : State) (i : Fin 7) (v : Word) : (s.setX i v).nbVal = s.nbVal := by
  fin_cases i <;> rfl
@[simp] theorem State.setX_nbEnd (s : State) (i : Fin 7) (v : Word) : (s.setX i v).nbEnd = s.nbEnd := by
  fin_cases i <;> rfl
@[simp] theorem State.setX_mem (s : State) (i : Fin 7) (v : Word) : (s.setX i v).mem = s.mem := by
  fin_cases i <;> rfl
@[simp] theorem State.setX_reply (s : State) (i : Fin 7) (v : Word) : (s.setX i v).reply = s.reply := by
  fin_cases i <;> rfl
@[simp] theorem State.setX_script (s : State) (i : Fin 7) (v : Word) : (s.setX i v).script = s.script := by
  fin_cases i <;> rfl
@[simp] theorem State.setX_draws (s : State) (i : Fin 7) (v : Word) : (s.setX i v).draws = s.draws := by
  fin_cases i <;> rfl

/-! ### Status bits of a written status register -/

theorem toNat_append_mul {m n : Nat} (x : BitVec m) (y : BitVec n) : (x ++ y).toNat = x.toNat * 2 ^ n + y.toNat := by
  rw [BitVec.toNat_append, ← Nat.shiftLeft_add_eq_or_of_lt y.isLt, Nat.shiftLeft_eq]

/-- The number FSTAT holds after fault entry (10_state.md R28). -/
theorem fstatWord_eq (c : Cause) (cmd : Byte) :
    fstatWord c cmd = BitVec.ofNat 64 (cmd.toNat * 256 + (causeCode c).toNat * 16 + 1) := by
  apply BitVec.eq_of_toNat_eq
  have h := cmd.isLt
  have e : (cmd ++ (causeCode c ++ (1 : Nibble))).toNat = cmd.toNat * 256 + (causeCode c).toNat * 16 + 1 := by
    rw [toNat_append_mul, toNat_append_mul]
    have h1 : (1 : Nibble).toNat = 1 := rfl
    omega
  rw [fstatWord, BitVec.toNat_setWidth, e, BitVec.toNat_ofNat]

theorem fstatWord_bit0 (c : Cause) (cmd : Byte) : (fstatWord c cmd).getLsbD 0 = true := by
  rw [fstatWord_eq, ← BitVec.testBit_toNat, BitVec.toNat_ofNat, Nat.testBit_zero]
  simp only [decide_eq_true_eq]
  omega

theorem nbCtlWord_bit0 (a h : Bool) : (nbCtlWord a h).getLsbD 0 = a := by cases a <;> cases h <;> rfl

theorem nbCtlWord_bit1 (a h : Bool) : (nbCtlWord a h).getLsbD 1 = h := by cases a <;> cases h <;> rfl

@[simp] theorem State.takeFault_halted (s : State) (c : Cause) (cmd : Byte) : (s.takeFault c cmd).halted = true :=
  fstatWord_bit0 c cmd

@[simp] theorem State.openCursor_nbAct (s : State) (P n : Nat) : (s.openCursor P n).nbAct = true :=
  nbCtlWord_bit0 ..

@[simp] theorem State.openCursor_nbHalf (s : State) (P n : Nat) : (s.openCursor P n).nbHalf = false :=
  nbCtlWord_bit1 ..

@[simp] theorem State.stepCursor_nbAct (s : State) (k : Nat) : (s.stepCursor k).nbAct = s.nbAct :=
  nbCtlWord_bit0 ..

@[simp] theorem State.stepCursor_nbHalf (s : State) (k : Nat) : (s.stepCursor k).nbHalf = !s.nbHalf :=
  nbCtlWord_bit1 ..

end Sys2Proof.Machine
end

