-- ==== Sys2Proof/Laws/Ops.lean ====
section
/-! SUPPORT. One lemma for each shared operation, saying everything it can answer: the proofs cite these and do not
unfold the operation. -/

namespace Sys2Proof.Machine

/-! ### The shape of a command -/

theorem bind_ok {α β : Type} (x : α) (f : α → Except Abort β) : (Except.ok x >>= f) = f x := rfl

theorem bind_error {α β : Type} (e : Abort) (f : α → Except Abort β) :
    ((Except.error e : Except Abort α) >>= f) = Except.error e := rfl

theorem raiseIf_true {p : Bool} {c : Cause} (h : p = true) : raiseIf p c = .error (.raise c) := by simp [raiseIf, h]

theorem raiseIf_false {p : Bool} {c : Cause} (h : p = false) : raiseIf p c = .ok () := by simp [raiseIf, h]

theorem reach_ok {a n : Nat} (h : a + n ≤ 2 ^ 64) : reach a n = .ok () := if_pos h

theorem reach_cases (a n : Nat) :
    (a + n ≤ 2 ^ 64 ∧ reach a n = .ok ()) ∨ (2 ^ 64 < a + n ∧ reach a n = .error (.stop .noSuchAddress)) := by
  unfold reach Config.addrLimit
  split_ifs with h
  · exact .inl ⟨h, rfl⟩
  · exact .inr ⟨by omega, rfl⟩

theorem load_ok {m : Memory} {a n : Nat} (h : a + n ≤ 2 ^ 64) : load m a n = .ok (Memory.readLE m a n) := by
  rw [load, reach_ok h, bind_ok]

/-- A command on a halted CORE answers HALTED and does nothing (60_exceptions.md R215). -/
theorem command_halted {cmd : Byte} {body : State → Except Abort State} {s : State} (h : s.halted = true) :
    command cmd body s = .next (s.answer (.status statusHalted)) := by simp [command, h]

theorem command_ok {cmd : Byte} {body : State → Except Abort State} {s t : State} (h : s.halted = false)
    (hb : body s = .ok t) : command cmd body s = .next (t.answer (.status statusOk)) := by simp [command, h, hb]

theorem command_raise {cmd : Byte} {body : State → Except Abort State} {s : State} {c : Cause} (h : s.halted = false)
    (hb : body s = .error (.raise c)) : command cmd body s = .next (s.takeFault c cmd) := by simp [command, h, hb]

theorem command_stop {cmd : Byte} {body : State → Except Abort State} {s : State} {f : Fault} (h : s.halted = false)
    (hb : body s = .error (.stop f)) : command cmd body s = .fault f := by simp [command, h, hb]

/-- Everything a command that answers a next state can have done. -/
theorem command_next {cmd : Byte} {body : State → Except Abort State} {s t : State}
    (h : command cmd body s = .next t) :
    (s.halted = true ∧ t = s.answer (.status statusHalted)) ∨
    (s.halted = false ∧ ∃ u, body s = .ok u ∧ t = u.answer (.status statusOk)) ∨
    (s.halted = false ∧ ∃ c, body s = .error (.raise c) ∧ t = s.takeFault c cmd) := by
  cases hh : s.halted with
  | true =>
    rw [command_halted hh] at h
    cases h
    exact .inl ⟨rfl, rfl⟩
  | false =>
    cases hb : body s with
    | ok u =>
      rw [command_ok hh hb] at h
      cases h
      exact .inr (.inl ⟨rfl, u, rfl, rfl⟩)
    | error e =>
      cases e with
      | raise c =>
        rw [command_raise hh hb] at h
        cases h
        exact .inr (.inr ⟨rfl, c, rfl, rfl⟩)
      | stop f =>
        rw [command_stop hh hb] at h
        cases h

/-! ### The cursor -/

theorem State.cursorOk_iff (s : State) : s.cursorOk = true ↔ s.CursorWellFormed := by
  simp only [State.cursorOk, Bool.and_eq_true, decide_eq_true_eq]
  exact Iff.rfl

/-- `checkCursor` passes exactly on a well-formed cursor, else raises BAD_CURSOR (20_memory.md R56). -/
theorem State.checkCursor_eq (s : State) :
    s.checkCursor = if s.CursorWellFormed then .ok () else .error (.raise .badCursor) := by
  have e := s.cursorOk_iff
  unfold State.checkCursor
  by_cases h : s.CursorWellFormed
  · rw [if_pos h, raiseIf_false (by simp [e.mpr h])]
  · rw [if_neg h, raiseIf_true (by simpa [← e] using h)]

/-- `checkRoom` passes exactly where the bytes lie in the window, else raises OVERRUN (20_memory.md R59). -/
theorem State.checkRoom_eq (s : State) (k : Nat) :
    s.checkRoom k = if s.cpos.toNat + k ≤ s.clen.toNat then .ok () else .error (.raise .overrun) := by
  unfold State.checkRoom raiseIf
  by_cases h : s.cpos.toNat + k ≤ s.clen.toNat
  · simp [h, Nat.not_lt.mpr h]
  · simp [h, Nat.not_le.mp h]

/-! ### The Encoder -/

/-- Everything `encodeAs` can answer (41_encoder.md R110). -/
theorem encodeAs_eq (s : State) (u n c : Nat) :
    encodeAs s u n c =
      if ¬ s.CursorWellFormed then .error (.raise .badCursor)
      else if s.cpos.toNat + n ≤ s.clen.toNat then
        .ok (((s.setMem (s.mem.writeLE s.cursorAddr n u)).advance n).setCode (BitVec.ofNat 64 c))
      else .error (.raise .overrun) := by
  unfold encodeAs encodeStore
  rw [s.checkCursor_eq, s.checkRoom_eq]
  by_cases h1 : s.CursorWellFormed
  · rw [if_pos h1, if_neg (not_not.mpr h1), bind_ok]
    by_cases h2 : s.cpos.toNat + n ≤ s.clen.toNat
    · rw [if_pos h2, if_pos h2, bind_ok,
        reach_ok (by unfold State.cursorAddr; unfold State.CursorWellFormed at h1; omega)]
      rfl
    · rw [if_neg h2, if_neg h2]
      rfl
  · rw [if_neg h1, if_pos h1]
    rfl

/-! ### The Size Scanner -/

/-- Everything `scanArray` can answer (42_size_scanner.md R141). -/
theorem scanArray_eq (s : State) :
    scanArray s =
      if ¬ s.CursorWellFormed then .error (.raise .badCursor)
      else if s.cnt.toNat > Config.nmax then .error (.raise .badCount)
      else if s.cpos.toNat + ceilHalf s.cnt.toNat ≤ s.clen.toNat then
        .ok (scanTotal s.mem s.cursorAddr s.cnt.toNat)
      else .error (.raise .overrun) := by
  unfold scanArray
  rw [s.checkCursor_eq, s.checkRoom_eq]
  by_cases h1 : s.CursorWellFormed
  · rw [if_pos h1, if_neg (not_not.mpr h1), bind_ok]
    by_cases h2 : s.cnt.toNat > Config.nmax
    · rw [if_pos h2, raiseIf_true (by simpa using h2)]
      rfl
    · rw [if_neg h2, raiseIf_false (by simpa using h2), bind_ok]
      by_cases h3 : s.cpos.toNat + ceilHalf s.cnt.toNat ≤ s.clen.toNat
      · rw [if_pos h3, if_pos h3, bind_ok,
          reach_ok (by unfold State.cursorAddr; unfold State.CursorWellFormed at h1; omega)]
        rfl
      · rw [if_neg h3, if_neg h3]
        rfl
  · rw [if_neg h1, if_pos h1]
    rfl

theorem effWidth_bounds (c : Nibble) : 1 ≤ effWidth c ∧ effWidth c ≤ 16 := by
  have := c.isLt
  unfold effWidth Config.escBytes
  split_ifs <;> omega

theorem fltWidth_bounds (c : Nibble) : 1 ≤ fltWidth c ∧ fltWidth c ≤ 16 := by
  have := c.isLt
  unfold fltWidth Config.escBytes
  split_ifs <;> omega

/-! ### The Decoder -/

/-- Everything `intDecode` can answer where the bytes up to the limit exist (43_decoder.md R151). -/
theorem intDecode_eq (m : Memory) {B L : Nat} (p : Nat) (c : Nibble) (h : B + L ≤ 2 ^ 64) :
    intDecode m B L p c =
      if c.toNat = 0 then .error (.raise .reservedCode)
      else if p + intWidth c.toNat ≤ L then
        .ok (if c.toNat > 8 then neg64 (BitVec.ofNat 64 (m.readLE (B + p) (intWidth c.toNat)))
          else BitVec.ofNat 64 (m.readLE (B + p) (intWidth c.toNat)), intWidth c.toNat)
      else .error (.raise .overrun) := by
  unfold intDecode
  change (raiseIf (decide (c.toNat = 0)) .reservedCode >>= fun _ =>
    raiseIf (decide (p + intWidth c.toNat > L)) .overrun >>= fun _ =>
      load m (B + p) (intWidth c.toNat) >>= fun v => _) = _
  by_cases h1 : c.toNat = 0
  · rw [if_pos h1, raiseIf_true (by simpa using h1)]
    rfl
  · rw [if_neg h1, raiseIf_false (by simpa using h1), bind_ok]
    by_cases h2 : p + intWidth c.toNat ≤ L
    · rw [if_pos h2, raiseIf_false (by simpa using h2), bind_ok, load_ok (by omega), bind_ok]
      rfl
    · rw [if_neg h2, raiseIf_true (by simpa using h2)]
      rfl

/-- Everything `fltDecode` can answer where the bytes up to the limit exist (43_decoder.md R163). -/
theorem fltDecode_eq (m : Memory) {B L : Nat} (p : Nat) (c : Nibble) (W : Nat) (h : B + L ≤ 2 ^ 64) :
    fltDecode m B L p c W =
      if p + fltWidth c ≤ L then
        .ok (if (W = 4 ∧ c = 4) ∨ (W = 8 ∧ c = 8) then some (BitVec.ofNat 64 (m.readLE (B + p) W)) else none,
          fltWidth c)
      else .error (.raise .overrun) := by
  unfold fltDecode
  change (raiseIf (decide (p + fltWidth c > L)) .overrun >>= fun _ => _) = _
  by_cases h2 : p + fltWidth c ≤ L
  · rw [if_pos h2, raiseIf_false (by simpa using h2), bind_ok]
    by_cases h3 : (W = 4 ∧ c = 4) ∨ (W = 8 ∧ c = 8)
    · have hW : W = fltWidth c := by rcases h3 with ⟨h4, h5⟩ | ⟨h4, h5⟩ <;> subst h4 h5 <;> rfl
      rw [if_pos h3, if_pos h3, load_ok (by omega), bind_ok]
    · rw [if_neg h3, if_neg h3]
  · rw [if_neg h2, raiseIf_true (by simpa using h2)]
    rfl

/-- The decode of an integer or pointer type is the integer decode and the cast (44_stream_cursor.md R186). -/
theorem decodeAs_int {t : TypeTag} (ht : typeClass t ≠ .float) (m : Memory) (B L p : Nat) (c : Nibble) :
    decodeAs t m B L p c = (intDecode m B L p c >>= fun r => .ok (some (castTo t r.1), r.2)) := by
  cases t <;> first | rfl | exact absurd rfl ht

theorem decodeAs_f32 (m : Memory) (B L p : Nat) (c : Nibble) :
    decodeAs .f32 m B L p c = fltDecode m B L p c 4 := rfl

theorem decodeAs_f64 (m : Memory) (B L p : Nat) (c : Nibble) :
    decodeAs .f64 m B L p c = fltDecode m B L p c 8 := rfl

/-- Every decode, where the bytes up to the limit exist: it raises RESERVED_CODE or OVERRUN, or it consumes at least one
byte and stays within the limit. -/
theorem decodeAs_cases (t : TypeTag) (m : Memory) {B L : Nat} (p : Nat) (c : Nibble) (h : B + L ≤ 2 ^ 64) :
    (typeClass t ≠ .float ∧ decodeAs t m B L p c = .error (.raise .reservedCode)) ∨
    decodeAs t m B L p c = .error (.raise .overrun) ∨
    ∃ r k, decodeAs t m B L p c = .ok (r, k) ∧ 1 ≤ k ∧ k ≤ 16 ∧ p + k ≤ L := by
  have hf : ∀ W, fltDecode m B L p c W = .error (.raise .overrun) ∨
      ∃ r k, fltDecode m B L p c W = .ok (r, k) ∧ 1 ≤ k ∧ k ≤ 16 ∧ p + k ≤ L := by
    intro W
    rw [fltDecode_eq m p c W h]
    by_cases h2 : p + fltWidth c ≤ L
    · rw [if_pos h2]
      exact .inr ⟨_, _, rfl, (fltWidth_bounds c).1, (fltWidth_bounds c).2, h2⟩
    · rw [if_neg h2]
      exact .inl rfl
  by_cases ht : typeClass t = .float
  · cases t <;> first | exact .inr (hf _) | cases ht
  · rw [decodeAs_int ht, intDecode_eq m p c h]
    by_cases h1 : c.toNat = 0
    · rw [if_pos h1]
      exact .inl ⟨ht, rfl⟩
    · rw [if_neg h1]
      by_cases h2 : p + intWidth c.toNat ≤ L
      · rw [if_pos h2]
        have hc := c.isLt
        refine .inr (.inr ⟨_, _, rfl, ?_, ?_, h2⟩) <;> simp only [intWidth] <;> split_ifs <;> omega
      · rw [if_neg h2]
        exact .inr (.inl rfl)

/-- Everything `unpack` can answer on a well-formed cursor is what its decode answers (43_decoder.md R150). -/
theorem unpack_eq (t : TypeTag) (s : State) :
    unpack t s =
      if s.CursorWellFormed then
        decodeAs t s.mem s.cbase.toNat s.clen.toNat s.cpos.toNat (codeField s.code) >>= fun r =>
          .ok ((s.setResult r.1).advance r.2)
      else .error (.raise .badCursor) := by
  unfold unpack
  rw [s.checkCursor_eq]
  by_cases h1 : s.CursorWellFormed
  · rw [if_pos h1, if_pos h1, bind_ok]
  · rw [if_neg h1, if_neg h1]
    rfl

/-! ### The Stream Cursor -/

/-- Everything `construct` can answer (44_stream_cursor.md R183). -/
theorem construct_eq (s : State) :
    construct s =
      if ¬ s.CursorWellFormed then .error (.raise .badCursor)
      else if s.cnt.toNat > Config.nmax then .error (.raise .badCount)
      else if s.cpos.toNat + ceilHalf s.cnt.toNat + scanTotal s.mem s.cursorAddr s.cnt.toNat ≤ s.clen.toNat then
        .ok (s.openCursor (ceilHalf s.cnt.toNat) (scanTotal s.mem s.cursorAddr s.cnt.toNat))
      else .error (.raise .overrun) := by
  unfold construct
  rw [scanArray_eq]
  by_cases h1 : s.CursorWellFormed
  · rw [if_neg (not_not.mpr h1), if_neg (not_not.mpr h1)]
    by_cases h2 : s.cnt.toNat > Config.nmax
    · rw [if_pos h2, if_pos h2]
      rfl
    · rw [if_neg h2, if_neg h2]
      by_cases h3 : s.cpos.toNat + ceilHalf s.cnt.toNat ≤ s.clen.toNat
      · rw [if_pos h3, bind_ok, s.checkRoom_eq, ← Nat.add_assoc]
        split_ifs <;> rfl
      · rw [if_neg h3, if_neg (by omega)]
        rfl
  · rw [if_pos h1, if_pos h1]
    rfl

/-- The current code, where its byte exists (44_stream_cursor.md R185). -/
theorem curCode_eq {s : State} (h : s.nbBase.toNat + s.nbPair.toNat + 1 ≤ 2 ^ 64) :
    curCode s = .ok (if s.nbHalf then pairSecond (s.mem.read (s.nbBase.toNat + s.nbPair.toNat))
      else pairFirst (s.mem.read (s.nbBase.toNat + s.nbPair.toNat))) := by
  unfold curCode
  rw [load_ok h, bind_ok]
  simp [Memory.readLE]

/-- Everything `getNext` can answer in a state with the invariant of R34 (44_stream_cursor.md R190). -/
theorem getNext_eq (t : TypeTag) {s : State} (h : s.StreamCursorOk) :
    getNext t s =
      if s.nbAct = false then .error (.raise .nbInactive)
      else if s.nbEnd.toNat ≤ s.nbVal.toNat then .error (.raise .endOfValues)
      else
        decodeAs t s.mem s.nbBase.toNat s.nbEnd.toNat s.nbVal.toNat
          (if s.nbHalf then pairSecond (s.mem.read (s.nbBase.toNat + s.nbPair.toNat))
            else pairFirst (s.mem.read (s.nbBase.toNat + s.nbPair.toNat))) >>= fun r =>
          .ok ((s.setResult r.1).stepCursor r.2) := by
  unfold getNext
  by_cases h1 : s.nbAct = false
  · rw [if_pos h1, raiseIf_true (by simp [h1])]
    rfl
  · have ha : s.nbAct = true := by simpa using h1
    rw [if_neg h1, raiseIf_false (by simp [ha]), bind_ok]
    by_cases h2 : s.nbEnd.toNat ≤ s.nbVal.toNat
    · rw [if_pos h2, raiseIf_true (by simpa using h2)]
      rfl
    · have h3 := h ha
      rw [if_neg h2, raiseIf_false (by simpa using h2), bind_ok, curCode_eq (by omega), bind_ok]

/-- Everything `endOfArguments` can answer (44_stream_cursor.md R202). -/
theorem endOfArguments_eq (s : State) :
    endOfArguments s = if s.nbAct = false then .error (.raise .nbInactive) else .ok (s.setVal s.nbEnd) := by
  unfold endOfArguments
  by_cases h1 : s.nbAct = false
  · rw [if_pos h1, raiseIf_true (by simp [h1])]
    rfl
  · rw [if_neg h1, raiseIf_false (by simpa using h1), bind_ok]

end Sys2Proof.Machine
end

