-- ==== Sys2Proof/Laws/Exec.lean ====
section
/-! SUPPORT. Every meaning is `command` over one of a few shared bodies: the equations that say which, so that a claim
about all commands splits into families and not into 37 unfoldings. -/

namespace Sys2Proof.Machine

/-- What the rule of each command does, once CORE is not halted. -/
def bodyOf : Instr → State → Except Abort State
  | .npmk => makePair
  | .npfst => firstOfPair
  | .npsnd => secondOfPair
  | .pkuU8 => packUnsigned 1
  | .pkuU16 => packUnsigned 2
  | .pkuU32 => packUnsigned 4
  | .pkuU64 => packUnsigned 8
  | .pksI32 => packSigned 32
  | .pksI64 => packSigned 64
  | .pkfF32 => packFloat 4
  | .pkfF64 => packFloat 8
  | .pkp => packUnsigned Config.ptrBytes
  | .scan => scanSize
  | .upiU8 => unpack .u8
  | .upiU16 => unpack .u16
  | .upiU32 => unpack .u32
  | .upiU64 => unpack .u64
  | .upiI8 => unpack .i8
  | .upiI16 => unpack .i16
  | .upiI32 => unpack .i32
  | .upiI64 => unpack .i64
  | .upfF32 => unpack .f32
  | .upfF64 => unpack .f64
  | .upp => unpack .ptr
  | .nbnew => construct
  | .nbnxtU8 => getNext .u8
  | .nbnxtU16 => getNext .u16
  | .nbnxtU32 => getNext .u32
  | .nbnxtU64 => getNext .u64
  | .nbnxtI8 => getNext .i8
  | .nbnxtI16 => getNext .i16
  | .nbnxtI32 => getNext .i32
  | .nbnxtI64 => getNext .i64
  | .nbnxtF32 => getNext .f32
  | .nbnxtF64 => getNext .f64
  | .nbnxtPtr => getNext .ptr
  | .nbend => endOfArguments

theorem exec_eq (i : Instr) (s : State) : exec i s = command (encode i) (bodyOf i) s := by cases i <;> rfl

/-- Everything a command that answers a next state can have done. -/
theorem exec_next {i : Instr} {s t : State} (h : exec i s = .next t) :
    (s.halted = true ∧ t = s.answer (.status statusHalted)) ∨
    (s.halted = false ∧ ∃ u, bodyOf i s = .ok u ∧ t = u.answer (.status statusOk)) ∨
    (s.halted = false ∧ ∃ c, bodyOf i s = .error (.raise c) ∧ t = s.takeFault c (encode i)) :=
  command_next (exec_eq i s ▸ h)

theorem exec_ok {i : Instr} {s t : State} (hs : s.halted = false) (h : bodyOf i s = .ok t) :
    exec i s = .next (t.answer (.status statusOk)) := by rw [exec_eq, command_ok hs h]

theorem exec_raise {i : Instr} {s : State} {c : Cause} (hs : s.halted = false)
    (h : bodyOf i s = .error (.raise c)) : exec i s = .next (s.takeFault c (encode i)) := by
  rw [exec_eq, command_raise hs h]

/-- The tag of a decode or NBNXT command (30_encoding.md R82); U8 stands for the commands that have none. -/
def tagOf : Instr → TypeTag
  | .upiU16 | .nbnxtU16 => .u16
  | .upiU32 | .nbnxtU32 => .u32
  | .upiU64 | .nbnxtU64 => .u64
  | .upiI8 | .nbnxtI8 => .i8
  | .upiI16 | .nbnxtI16 => .i16
  | .upiI32 | .nbnxtI32 => .i32
  | .upiI64 | .nbnxtI64 => .i64
  | .upfF32 | .nbnxtF32 => .f32
  | .upfF64 | .nbnxtF64 => .f64
  | .upp | .nbnxtPtr => .ptr
  | _ => .u8

theorem bodyOf_integerDecoder {i : Instr} (h : family i = .integerDecoder) :
    bodyOf i = unpack (tagOf i) ∧ typeClass (tagOf i) ≠ .float := by
  cases i <;> first | exact ⟨rfl, by decide⟩ | cases h

theorem bodyOf_floatDecoder {i : Instr} (h : family i = .floatDecoder) :
    bodyOf i = unpack (tagOf i) ∧ typeClass (tagOf i) = .float := by
  cases i <;> first | exact ⟨rfl, rfl⟩ | cases h

theorem bodyOf_nextInteger {i : Instr} (h : family i = .nextInteger) :
    bodyOf i = getNext (tagOf i) ∧ typeClass (tagOf i) ≠ .float := by
  cases i <;> first | exact ⟨rfl, by decide⟩ | cases h

theorem bodyOf_nextFloat {i : Instr} (h : family i = .nextFloat) :
    bodyOf i = getNext (tagOf i) ∧ typeClass (tagOf i) = .float := by
  cases i <;> first | exact ⟨rfl, rfl⟩ | cases h

/-! ### What an encode command stores -/

/-- The quantity, the byte count and the code of `PKU(W)` (41_encoder.md R111). -/
def unsignedParts (W : Nat) (v : Word) : Nat × Nat × Nat :=
  (valueField W v, minBytes (valueField W v), minBytes (valueField W v))

/-- The quantity, the byte count and the code of `PKS(T)` (R116, R117). -/
def signedParts (T : Nat) (v : Word) : Nat × Nat × Nat :=
  let p := v.setWidth T
  if storeRaw T p.toInt then (p.toNat, minBytes p.toNat, minBytes p.toNat)
  else ((-p.toInt).toNat, minBytes (-p.toInt).toNat, 8 + minBytes (-p.toInt).toNat)

/-- The quantity, the byte count and the code an encode command gives for the register value `v`; zeros for the
commands that are none. -/
def encodeParts : Instr → Word → Nat × Nat × Nat
  | .pkuU8, v => unsignedParts 1 v
  | .pkuU16, v => unsignedParts 2 v
  | .pkuU32, v => unsignedParts 4 v
  | .pkuU64, v | .pkp, v => unsignedParts 8 v
  | .pksI32, v => signedParts 32 v
  | .pksI64, v => signedParts 64 v
  | .pkfF32, v => (valueField 4 v, 4, 4)
  | .pkfF64, v => (valueField 8 v, 8, 8)
  | _, _ => (0, 0, 0)

/-- Every encode command is `encodeAs` of its parts. -/
theorem bodyOf_encoder {i : Instr} (h : family i = .encoder) (s : State) :
    bodyOf i s =
      encodeAs s (encodeParts i s.val).1 (encodeParts i s.val).2.1 (encodeParts i s.val).2.2 := by
  have hs : ∀ T, packSigned T s =
      encodeAs s (signedParts T s.val).1 (signedParts T s.val).2.1 (signedParts T s.val).2.2 := by
    intro T
    unfold packSigned signedParts
    dsimp only
    split <;> rfl
  cases i <;> first | rfl | exact hs _ | cases h

/-! ### minBytes (00_scope.md R15) -/

theorem minBytes_pos (v : Nat) : 1 ≤ minBytes v := by unfold minBytes; split_ifs <;> omega

theorem minBytes_le_eight (v : Nat) : minBytes v ≤ 8 := by unfold minBytes; split_ifs <;> omega

theorem lt_pow_minBytes {v : Nat} (h : v < 2 ^ 64) : v < 256 ^ minBytes v := by
  unfold minBytes
  split_ifs <;> norm_num at * <;> omega

theorem minBytes_le {v k : Nat} (hk : 1 ≤ k) (h : v < 256 ^ k) : minBytes v ≤ k := by
  by_cases h8 : 8 ≤ k
  · exact (minBytes_le_eight v).trans h8
  · have : k = 1 ∨ k = 2 ∨ k = 3 ∨ k = 4 ∨ k = 5 ∨ k = 6 ∨ k = 7 := by omega
    unfold minBytes
    rcases this with rfl | rfl | rfl | rfl | rfl | rfl | rfl <;> norm_num at h <;> split_ifs <;> omega

/-- `minBytes v` is the one number with the three properties of R15. -/
theorem minBytes_unique {v n : Nat} (hv : v < 2 ^ 64) (h1 : 1 ≤ n) (h2 : v < 256 ^ n)
    (h3 : ∀ k, 1 ≤ k → v < 256 ^ k → n ≤ k) : minBytes v = n :=
  Nat.le_antisymm (minBytes_le h1 h2) (h3 _ (minBytes_pos v) (lt_pow_minBytes hv))

theorem valueField_lt (W : Nat) (x : Word) : valueField W x < 256 ^ W := by
  have := (x.setWidth (8 * W)).isLt
  rw [show (256 : Nat) = 2 ^ 8 from rfl, ← pow_mul]
  exact this

theorem valueField_eq {W : Nat} (x : Word) : valueField W x = x.toNat % 256 ^ W := by
  rw [valueField, BitVec.toNat_setWidth, show (256 : Nat) = 2 ^ 8 from rfl, ← pow_mul]

end Sys2Proof.Machine
end

