-- ==== Sys2Proof/Laws/PerInstr.lean ====
section
/-! SUPPORT. Laws made per command: one lemma for each constructor of `Instr`. -/

namespace Sys2Proof.Laws.EncodingFields

/-- The byte of a command has legal fields (30_encoding.md R81, R84), and its operation takes a tag exactly where
R81 lists tags for it. -/
def Statement (i : Instr) : Prop :=
  i.wellFormed = true ∧ (Cmd8.ofByte (encode i)).wellFormed = true ∧
    (Cmd8.ofByte (encode i)).takesType = !(Cmd8.tagsOf (Cmd8.ofByte (encode i)).op).isEmpty

theorem npmk : Statement .npmk := by unfold Statement; decide

theorem npfst : Statement .npfst := by unfold Statement; decide

theorem npsnd : Statement .npsnd := by unfold Statement; decide

theorem pkuU8 : Statement .pkuU8 := by unfold Statement; decide

theorem pkuU16 : Statement .pkuU16 := by unfold Statement; decide

theorem pkuU32 : Statement .pkuU32 := by unfold Statement; decide

theorem pkuU64 : Statement .pkuU64 := by unfold Statement; decide

theorem pksI32 : Statement .pksI32 := by unfold Statement; decide

theorem pksI64 : Statement .pksI64 := by unfold Statement; decide

theorem pkfF32 : Statement .pkfF32 := by unfold Statement; decide

theorem pkfF64 : Statement .pkfF64 := by unfold Statement; decide

theorem pkp : Statement .pkp := by unfold Statement; decide

theorem scan : Statement .scan := by unfold Statement; decide

theorem upiU8 : Statement .upiU8 := by unfold Statement; decide

theorem upiU16 : Statement .upiU16 := by unfold Statement; decide

theorem upiU32 : Statement .upiU32 := by unfold Statement; decide

theorem upiU64 : Statement .upiU64 := by unfold Statement; decide

theorem upiI8 : Statement .upiI8 := by unfold Statement; decide

theorem upiI16 : Statement .upiI16 := by unfold Statement; decide

theorem upiI32 : Statement .upiI32 := by unfold Statement; decide

theorem upiI64 : Statement .upiI64 := by unfold Statement; decide

theorem upfF32 : Statement .upfF32 := by unfold Statement; decide

theorem upfF64 : Statement .upfF64 := by unfold Statement; decide

theorem upp : Statement .upp := by unfold Statement; decide

theorem nbnew : Statement .nbnew := by unfold Statement; decide

theorem nbnxtU8 : Statement .nbnxtU8 := by unfold Statement; decide

theorem nbnxtU16 : Statement .nbnxtU16 := by unfold Statement; decide

theorem nbnxtU32 : Statement .nbnxtU32 := by unfold Statement; decide

theorem nbnxtU64 : Statement .nbnxtU64 := by unfold Statement; decide

theorem nbnxtI8 : Statement .nbnxtI8 := by unfold Statement; decide

theorem nbnxtI16 : Statement .nbnxtI16 := by unfold Statement; decide

theorem nbnxtI32 : Statement .nbnxtI32 := by unfold Statement; decide

theorem nbnxtI64 : Statement .nbnxtI64 := by unfold Statement; decide

theorem nbnxtF32 : Statement .nbnxtF32 := by unfold Statement; decide

theorem nbnxtF64 : Statement .nbnxtF64 := by unfold Statement; decide

theorem nbnxtPtr : Statement .nbnxtPtr := by unfold Statement; decide

theorem nbend : Statement .nbend := by unfold Statement; decide

end Sys2Proof.Laws.EncodingFields
end

