-- ==== Sys2Proof/Tests/Slice0.lean ====
section
/-! SUPPORT. The model's own tests: the checks of WellFormed, the written command bytes, vectors of 95_test_vectors.md, one
step each, and, for every statement with hypotheses, a concrete state and operands that meet them. -/

namespace Sys2Proof.Tests

open Sys2Proof.Machine

/-- The next state of an outcome. -/
def after (o : Host.Outcome State Fault Refusal) : Option State :=
  match o with
  | .next s => some s
  | _ => none

theorem next_of_after {o : Host.Outcome State Fault Refusal} {t : State} (h : after o = some t) : o = .next t := by
  cases o <;> cases h
  rfl

/-- A command that answers has a next state, with the reply that a run shows. -/
theorem answers {o : Host.Outcome State Fault Refusal} {r : Reply} (h : (after o).map (·.reply) = some r) :
    ∃ t, o = .next t ∧ t.reply = r := by
  cases o <;> cases h
  exact ⟨_, rfl, rfl⟩

/-- A state with a cursor at `CBASE = 0x100`, `CPOS = 0`. -/
def at100 (clen : Nat) (val code cnt : Word) (bytes : List Byte) : State :=
  { State.reset with
    cbase := 0x100, clen := BitVec.ofNat 64 clen, val := val, code := code, cnt := cnt
    mem := Memory.writeLE [] 0x100 bytes.length (bytes.foldr (fun b n => b.toNat + 256 * n) 0) }

/-- A stream cursor at `NB_BASE = 0x100` over one pair byte and `bytes`, on its first half. -/
def reading (nbEnd : Nat) (half : Bool) (bytes : List Byte) : State :=
  { at100 nbEnd 0 0 0 bytes with
    nbBase := 0x100, nbPair := 0, nbVal := 1, nbEnd := BitVec.ofNat 64 nbEnd, nbCtl := nbCtlWord true half }

/-! ### WellFormed: each check refuses an ill-formed term (30_encoding.md R84) -/

theorem test_opLegal_refuses : (Cmd8.mk 0x0 0x0).wellFormed = false ∧ (Cmd8.mk 0xF 0x3).wellFormed = false := by decide

theorem test_untypedTagZero_refuses : (Cmd8.mk 0x1 0x1).wellFormed = false := by decide

theorem test_typedTagListed_refuses : (Cmd8.mk 0x5 0x4).wellFormed = false ∧ (Cmd8.mk 0x5 0x8).wellFormed = false := by
  decide

theorem test_wellFormed_accepts : (Cmd8.mk 0xD 0xF).wellFormed = true := by decide

/-! ### Decoding: bytes written bit by bit from R80 to R83, op then ty -/

theorem test_decode_NibblePair :
    decode 0b00010000 = .ok .npmk ∧
    decode 0b00100000 = .ok .npfst ∧
    decode 0b00110000 = .ok .npsnd := by
  decide

theorem test_decode_Encoder :
    decode 0b01000000 = .ok .pkuU8 ∧
    decode 0b01000001 = .ok .pkuU16 ∧
    decode 0b01000010 = .ok .pkuU32 ∧
    decode 0b01000011 = .ok .pkuU64 ∧
    decode 0b01010110 = .ok .pksI32 ∧
    decode 0b01010111 = .ok .pksI64 ∧
    decode 0b01101010 = .ok .pkfF32 ∧
    decode 0b01101011 = .ok .pkfF64 ∧
    decode 0b01111111 = .ok .pkp := by
  decide

theorem test_decode_Scanner :
    decode 0b10000000 = .ok .scan := by
  decide

theorem test_decode_Decoder :
    decode 0b10010000 = .ok .upiU8 ∧
    decode 0b10010001 = .ok .upiU16 ∧
    decode 0b10010010 = .ok .upiU32 ∧
    decode 0b10010011 = .ok .upiU64 ∧
    decode 0b10010100 = .ok .upiI8 ∧
    decode 0b10010101 = .ok .upiI16 ∧
    decode 0b10010110 = .ok .upiI32 ∧
    decode 0b10010111 = .ok .upiI64 ∧
    decode 0b10101010 = .ok .upfF32 ∧
    decode 0b10101011 = .ok .upfF64 ∧
    decode 0b10111111 = .ok .upp := by
  decide

theorem test_decode_StreamCursor :
    decode 0b11000000 = .ok .nbnew ∧
    decode 0b11010000 = .ok .nbnxtU8 ∧
    decode 0b11010001 = .ok .nbnxtU16 ∧
    decode 0b11010010 = .ok .nbnxtU32 ∧
    decode 0b11010011 = .ok .nbnxtU64 ∧
    decode 0b11010100 = .ok .nbnxtI8 ∧
    decode 0b11010101 = .ok .nbnxtI16 ∧
    decode 0b11010110 = .ok .nbnxtI32 ∧
    decode 0b11010111 = .ok .nbnxtI64 ∧
    decode 0b11011010 = .ok .nbnxtF32 ∧
    decode 0b11011011 = .ok .nbnxtF64 ∧
    decode 0b11011111 = .ok .nbnxtPtr ∧
    decode 0b11100000 = .ok .nbend := by
  decide

theorem test_decode_rejects : decode 0x00 = .error (.illegalOp 0) ∧ decode 0xFF = .error (.illegalOp 15) ∧
    decode 0x11 = .error (.tagOnUntyped 1 1) ∧ decode 0x54 = .error (.tagNotListed 5 4) ∧
    decode 0x58 = .error (.tagNotListed 5 8) := by
  decide

theorem test_decodeTableWord : decodeTableWord 8 0xD7 = some .nbnxtI64 ∧ decodeTableWord 8 0x98 = none := by decide

/-! ### One step each, from the worked examples and vectors of the spec -/

/-- Part 4, nibble-pair row 2. -/
theorem test_npmk : (after (exec .npmk ({ State.reset with code := 0xFFFFFFFFFFFFFFF4, aux := 0x16 }))).map (fun s => (s.val, s.reply)) =
    some (0x64, .status 0) := by
  decide

/-- Part 4, nibble-pair row 7. -/
theorem test_npfst : (after (exec .npfst ({ State.reset with val := 0xABCDEF0123456789 }))).map (fun s => (s.code, s.val)) =
    some (9, 0xABCDEF0123456789) := by
  decide

/-- Part 4, nibble-pair row 8. -/
theorem test_npsnd : (after (exec .npsnd ({ State.reset with val := 0xABCDEF0123456789 }))).map (fun s => (s.code, s.val)) =
    some (8, 0xABCDEF0123456789) := by
  decide

/-- Part 2 row 20. -/
theorem test_pkuU8 : (after (exec .pkuU8 (at100 8 0x1FF 0 0 []))).map (fun s => (s.code, s.cpos, s.mem.map (·.2), s.reply)) =
    some (1, 1, [0xFF], .status 0) := by
  decide

/-- Part 2 row 21: bytes 00 01. -/
theorem test_pkuU16 : (after (exec .pkuU16 (at100 8 0xFFFFFFFFFFFF0100 0 0 []))).map (fun s => (s.code, s.cpos, s.mem)) =
    some (2, 2, [(0x101, 1)]) := by
  decide

/-- R114: 300 gives 2C 01. -/
theorem test_pkuU32 : (after (exec .pkuU32 (at100 8 0x12C 0 0 []))).map (fun s => (s.code, s.cpos, s.mem.map (·.2), s.reply)) =
    some (2, 2, [0x2C, 1], .status 0) := by
  decide

/-- Part 2 row 18. -/
theorem test_pkuU64 : (after (exec .pkuU64 (at100 8 0x0123456789ABCDEF 0 0 []))).map (fun s => (s.code, s.cpos, s.mem.map (·.2), s.reply)) =
    some (8, 8, [0xEF, 0xCD, 0xAB, 0x89, 0x67, 0x45, 0x23, 1], .status 0) := by
  decide

/-- Part 2 row 15: 2^56 - 1. -/
theorem test_pkuU64_seven : (after (exec .pkuU64 (at100 8 0xFFFFFFFFFFFFFF 0 0 []))).map (fun s => (s.code, s.cpos)) =
    some (7, 7) := by
  decide

/-- S1, the one numeric example of the source: -5. -/
theorem test_pksI32_source_example : (after (exec .pksI32 (at100 8 0x12345678FFFFFFFB 0 0 []))).map (fun s => (s.code, s.cpos, s.mem.map (·.2), s.reply)) =
    some (9, 1, [5], .status 0) := by
  decide

/-- Part 3 row 14: -(2^24), raw, bytes 00 00 00 FF. -/
theorem test_pksI32_threshold : (after (exec .pksI32 (at100 8 0xFF000000 0 0 []))).map (fun s => (s.code, s.cpos, s.mem)) =
    some (4, 4, [(0x103, 0xFF)]) := by
  decide

/-- Part 3, PKS.I64 row 10: -(2^56) + 1, the last negated value. -/
theorem test_pksI64 : (after (exec .pksI64 (at100 8 0xFF00000000000001 0 0 []))).map (fun s => (s.code, s.cpos, s.mem.map (·.2), s.reply)) =
    some (15, 7, [0xFF, 0xFF, 0xFF, 0xFF, 0xFF, 0xFF, 0xFF], .status 0) := by
  decide

/-- Part 3, PKS.I64 row 11: the threshold, raw. -/
theorem test_pksI64_threshold : (after (exec .pksI64 (at100 8 0xFF00000000000000 0 0 []))).map (fun s => (s.code, s.cpos, s.mem)) =
    some (8, 8, [(0x107, 0xFF)]) := by
  decide

/-- Part 6 row 2: bytes 00 00 00 C0. -/
theorem test_pkfF32 : (after (exec .pkfF32 (at100 8 0xFFFFFFFFC0000000 0 0 []))).map (fun s => (s.code, s.cpos, s.mem)) =
    some (4, 4, [(0x103, 0xC0)]) := by
  decide

/-- Part 6 row 4. -/
theorem test_pkfF64 : (after (exec .pkfF64 (at100 8 0x400921FB54442D18 0 0 []))).map (fun s => (s.code, s.cpos, s.mem.map (·.2), s.reply)) =
    some (8, 8, [0x18, 0x2D, 0x44, 0x54, 0xFB, 0x21, 9, 0x40], .status 0) := by
  decide

/-- Part 2 row 24. -/
theorem test_pkp : (after (exec .pkp (at100 8 0x00007FFF12345678 0 0 []))).map (fun s => (s.code, s.cpos, s.mem.map (·.2), s.reply)) =
    some (6, 6, [0x78, 0x56, 0x34, 0x12, 0xFF, 0x7F], .status 0) := by
  decide

/-- Part 7 row 9. -/
theorem test_pku_last_address : (after (exec .pkuU8 { State.reset with cbase := 0xFFFFFFFFFFFFFFFF, clen := 1, val := 7 })).map (fun s => (s.mem, s.cpos, s.code)) =
    some ([(0xFFFFFFFFFFFFFFFF, 7)], 1, 1) := by
  decide

/-- Part 7 row 13 and program P4. -/
theorem test_pku_overrun : (after (exec .pkuU32 (at100 2 0x10000 0x77 0 []))).map (fun s => (s.fstat, s.mem, s.code, s.cpos, s.reply)) =
    some (0x4231, [], 0x77, 0, .status 3) := by
  decide

/-- Part 7 row 7. -/
theorem test_pku_badCursor : (after (exec .pkuU8 ({ at100 4 0 0 0 [] with cpos := 5 }))).map (fun s => (s.fstat, s.reply)) =
    some (0x4021, .status 2) := by
  decide

/-- Part 4 row 2: the unused nibble is F. -/
theorem test_scan_odd : (after (exec .scan (at100 2 0 0 3 [0x92, 0xF1]))).map (fun s => (s.val, s.cpos, s.reply)) =
    some (4, 0, .status 0) := by
  decide

/-- Part 4 row 9. -/
theorem test_scan_all_codes : (after (exec .scan (at100 8 0 0 16 [0x21, 0x43, 0x65, 0x87, 0xA9, 0xCB, 0xED, 0x0F]))).map (fun s => (s.val, s.reply)) =
    some (80, .status 0) := by
  decide

/-- Part 7 row 10. -/
theorem test_scan_badCount : (after (exec .scan (at100 4 0 0 0x10000000 []))).map (fun s => (s.fstat, s.reply)) =
    some (0x8041, .status 4) := by
  decide

/-- Part 5, code 9 over 05. -/
theorem test_upiU8 : (after (exec .upiU8 (at100 1 0 9 0 [5]))).map (fun s => (s.val, s.cpos, s.reply)) =
    some (0xFB, 1, .status 0) := by
  decide

/-- Part 5, code 9 over 05. -/
theorem test_upiU16 : (after (exec .upiU16 (at100 1 0 9 0 [5]))).map (fun s => (s.val, s.cpos, s.reply)) =
    some (0xFFFB, 1, .status 0) := by
  decide

/-- Part 5, code 9 over 05. -/
theorem test_upiU32 : (after (exec .upiU32 (at100 1 0 9 0 [5]))).map (fun s => (s.val, s.cpos, s.reply)) =
    some (0xFFFFFFFB, 1, .status 0) := by
  decide

/-- Part 5, code 9 over 05. -/
theorem test_upiU64 : (after (exec .upiU64 (at100 1 0 9 0 [5]))).map (fun s => (s.val, s.cpos, s.reply)) =
    some (0xFFFFFFFFFFFFFFFB, 1, .status 0) := by
  decide

/-- Part 5, code 9 over 05. -/
theorem test_upp : (after (exec .upp (at100 1 0 9 0 [5]))).map (fun s => (s.val, s.cpos, s.reply)) =
    some (0xFFFFFFFFFFFFFFFB, 1, .status 0) := by
  decide

/-- Part 5, code 2 over 80 FF. -/
theorem test_upiI8 : (after (exec .upiI8 (at100 2 0 2 0 [0x80, 0xFF]))).map (fun s => (s.val, s.cpos, s.reply)) =
    some (0xFFFFFFFFFFFFFF80, 2, .status 0) := by
  decide

/-- R158: code 10 over 00 01. -/
theorem test_upiI16 : (after (exec .upiI16 (at100 2 0 10 0 [0, 1]))).map (fun s => (s.val, s.cpos, s.reply)) =
    some (0xFFFFFFFFFFFFFF00, 2, .status 0) := by
  decide

/-- Part 5: the threshold reads back under I32. -/
theorem test_upiI32 : (after (exec .upiI32 (at100 4 0 4 0 [0, 0, 0, 0xFF]))).map (fun s => (s.val, s.cpos, s.reply)) =
    some (0xFFFFFFFFFF000000, 4, .status 0) := by
  decide

/-- Part 5 corner row 2. -/
theorem test_upiI64 : (after (exec .upiI64 (at100 7 0 15 0 [0xFF, 0xFF, 0xFF, 0xFF, 0xFF, 0xFF, 0xFF]))).map (fun s => (s.val, s.cpos, s.reply)) =
    some (0xFF00000000000001, 7, .status 0) := by
  decide

/-- R168: not the packed value under I64. -/
theorem test_upiI64_raw_pattern : (after (exec .upiI64 (at100 4 0 4 0 [0, 0, 0, 0xFF]))).map (fun s => (s.val, s.cpos, s.reply)) =
    some (0xFF000000, 4, .status 0) := by
  decide

/-- Part 5 row 11. -/
theorem test_upi_reserved_before_room : (after (exec .upiU8 ({ at100 4 0 0 0 [] with cpos := 4 }))).map (fun s => (s.fstat, s.reply)) =
    some (0x9051, .status 5) := by
  decide

/-- Part 5 row 9. -/
theorem test_upi_overrun : (after (exec .upiU32 (at100 2 0 3 0 []))).map (fun s => (s.fstat, s.reply)) =
    some (0x9231, .status 3) := by
  decide

/-- Part 6 row 7. -/
theorem test_upfF32 : (after (exec .upfF32 (at100 4 0 4 0 [0, 0, 0x80, 0x3F]))).map (fun s => (s.val, s.cpos, s.reply)) =
    some (0x3F800000, 4, .status 0) := by
  decide

/-- Part 6 row 13: code 9 moves by 9, not 1; nothing is said of VAL. -/
theorem test_upfF32_mismatch : (after (exec .upfF32 (at100 9 0 9 0 []))).map (fun s => (s.cpos, s.draws, s.reply)) =
    some (9, 1, .status 0) := by
  decide

/-- Part 6 row 8. -/
theorem test_upfF64 : (after (exec .upfF64 (at100 8 0 8 0 [0x18, 0x2D, 0x44, 0x54, 0xFB, 0x21, 0x09, 0x40]))).map (fun s => (s.val, s.cpos, s.reply)) =
    some (0x400921FB54442D18, 8, .status 0) := by
  decide

/-- Part 6 row 12. -/
theorem test_upfF64_code0_overrun : (after (exec .upfF64 (at100 15 0 0 0 []))).map (fun s => (s.fstat, s.reply)) =
    some (0xAB31, .status 3) := by
  decide

/-- R183, the example (at another base). -/
theorem test_nbnew : (after (exec .nbnew (at100 6 0 0 3 [0x92, 0x01, 0x2C, 0x01, 0x05, 0x00]))).map (fun s => (s.nbBase, s.nbPair, s.nbVal, s.nbEnd, s.nbCtl)) =
    some (0x100, 0, 2, 6, 1) := by
  decide

/-- Program P5, last remark: 1 + 20 > 20. -/
theorem test_nbnew_values_overrun : (after (exec .nbnew (at100 0x14 0 0 2 [0x40]))).map (fun s => (s.fstat, s.nbCtl, s.reply)) =
    some (0xC031, 0, .status 3) := by
  decide

/-- R191. -/
theorem test_nbnxtU8 : (after (exec .nbnxtU8 (reading 2 false [0x91, 0xFF]))).map (fun s => (s.val, s.nbVal, s.nbPair, s.nbCtl)) =
    some (0xFF, 2, 0, 3) := by
  decide

/-- R192. -/
theorem test_nbnxtU16 : (after (exec .nbnxtU16 (reading 3 false [0x02, 0xFF, 0xFF]))).map (fun s => (s.val, s.nbVal, s.nbPair, s.nbCtl)) =
    some (0xFFFF, 3, 0, 3) := by
  decide

/-- R193. -/
theorem test_nbnxtU32 : (after (exec .nbnxtU32 (reading 3 false [0x92, 0x2C, 0x01]))).map (fun s => (s.val, s.nbVal, s.nbPair, s.nbCtl)) =
    some (300, 3, 0, 3) := by
  decide

/-- R194. -/
theorem test_nbnxtU64 : (after (exec .nbnxtU64 (reading 2 false [0x01, 0x00]))).map (fun s => (s.val, s.nbVal, s.nbPair, s.nbCtl)) =
    some (0, 2, 0, 3) := by
  decide

/-- R195, from the second half: the pair pointer moves. -/
theorem test_nbnxtI8 : (after (exec .nbnxtI8 (reading 2 true [0x92, 0x05]))).map (fun s => (s.val, s.nbVal, s.nbPair, s.nbCtl)) =
    some (0xFFFFFFFFFFFFFFFB, 2, 1, 1) := by
  decide

/-- R196. -/
theorem test_nbnxtI16 : (after (exec .nbnxtI16 (reading 3 false [0x0A, 0x00, 0x01]))).map (fun s => (s.val, s.nbVal, s.nbPair, s.nbCtl)) =
    some (0xFFFFFFFFFFFFFF00, 3, 0, 3) := by
  decide

/-- R197. -/
theorem test_nbnxtI32 : (after (exec .nbnxtI32 (reading 2 true [0x92, 0x05]))).map (fun s => (s.val, s.nbVal, s.nbPair, s.nbCtl)) =
    some (0xFFFFFFFFFFFFFFFB, 2, 1, 1) := by
  decide

/-- R198. -/
theorem test_nbnxtI64 : (after (exec .nbnxtI64 (reading 8 false [0x0F, 0xFF, 0xFF, 0xFF, 0xFF, 0xFF, 0xFF, 0xFF]))).map (fun s => (s.val, s.nbVal, s.nbPair, s.nbCtl)) =
    some (0xFF00000000000001, 8, 0, 3) := by
  decide

/-- R199. -/
theorem test_nbnxtF32 : (after (exec .nbnxtF32 (reading 5 false [0x04, 0, 0, 0x80, 0x3F]))).map (fun s => (s.val, s.nbVal, s.nbPair, s.nbCtl)) =
    some (0x3F800000, 5, 0, 3) := by
  decide

/-- Part 7 row 14. -/
theorem test_nbnxtF32_overrun : (after (exec .nbnxtF32 (reading 2 false [0x09, 0x05]))).map (fun s => (s.fstat, s.nbVal)) =
    some (0xDA31, 1) := by
  decide

/-- R200. -/
theorem test_nbnxtF64 : (after (exec .nbnxtF64 (reading 9 false [0x08, 0x18, 0x2D, 0x44, 0x54, 0xFB, 0x21, 0x09, 0x40]))).map (fun s => (s.val, s.nbVal, s.nbPair, s.nbCtl)) =
    some (0x400921FB54442D18, 9, 0, 3) := by
  decide

/-- Program P5: code 0 under a float tag moves by 16. -/
theorem test_nbnxtF64_code0 : (after (exec .nbnxtF64 (reading 17 false [0x40]))).map (fun s => (s.nbVal, s.nbCtl, s.draws)) =
    some (17, 3, 1) := by
  decide

/-- R201. -/
theorem test_nbnxtPtr : (after (exec .nbnxtPtr (reading 7 false [0x06, 0x78, 0x56, 0x34, 0x12, 0xFF, 0x7F]))).map (fun s => (s.val, s.nbVal, s.nbPair, s.nbCtl)) =
    some (0x7FFF12345678, 7, 0, 3) := by
  decide

/-- R216: END_OF_VALUES comes before RESERVED_CODE. -/
theorem test_nbnxt_terminal : (after (exec .nbnxtU8 ({ reading 1 false [] with nbVal := 1 }))).map (fun s => (s.fstat, s.reply)) =
    some (0xD061, .status 6) := by
  decide

/-- Program P5. -/
theorem test_nbnxt_reserved : (after (exec .nbnxtU64 (reading 17 false [0x40]))).map (fun s => (s.fstat, s.reply)) =
    some (0xD351, .status 5) := by
  decide

/-- R202, the example. -/
theorem test_nbend : (after (exec .nbend (reading 6 false []))).map (fun s => (s.val, s.reply)) =
    some (6, .status 0) := by
  decide

/-- Part 7 row 1. -/
theorem test_nbend_inactive : (after (step (State.reset.withFetchWord 8 0xE0))).map (fun s => (s.fstat, s.reply)) =
    some (0xE071, .status 7) := by
  decide

/-- Part 7 row 5. -/
theorem test_illegal : (after (step (State.reset.withFetchWord 8 0x54))).map (fun s => (s.fstat, s.reply)) =
    some (0x5411, .status 1) := by
  decide

/-- Program P1, last line: a halted CORE does not decode. -/
theorem test_halted : (after (step (State.withFetchWord { State.reset with fstat := 0xD061 } 8 0x00))).map (fun s => (s.fstat, s.reply)) =
    some (0xD061, .status 0xF) := by
  decide

/-- R240. -/
theorem test_reset_move : (after (step { State.reset with fstat := 0x4231, mem := [(7, 1)], script := [.reset] })).map (fun s => (s.fstat, s.nbCtl, s.mem)) =
    some (0, 0, [(7, 1)]) := by
  decide

/-- R27. -/
theorem test_csr_above_five : (after (step { State.reset with script := [.csrRead 6] })).map (·.reply) = some (.word 0) := by
  decide

/-- R8. -/
theorem test_config_widths : typeBytes .ptr = Config.ptrBytes ∧ typeBytes .u64 = Config.maxIntBytes ∧ effWidth 0 = Config.escBytes := by
  decide

/-! ### Witnesses: for each statement with hypotheses, a state and operands that meet them, at boundary values -/

/-- DecodeEncodeAgree, StepRunsTheDecodedCommand. -/
theorem witness_stepRunsDecoded :
    (State.reset.withFetchWord 8 0xD0).script = .issue 0xD0 :: [] ∧ decode 0xD0 = .ok .nbnxtU8 ∧
      Instr.wellFormed .nbnxtU8 = true ∧ decode (encode .nbend) = .ok .nbend := by decide

/-- IllegalByteTakesIllegalCmd, at the least and the greatest illegal byte. -/
theorem witness_illegalByte :
    (State.reset.withFetchWord 8 0x00).script = .issue 0x00 :: [] ∧ State.reset.halted = false ∧
      (∀ i, encode i ≠ 0x00) ∧ ∀ i, encode i ≠ 0xFF :=
  ⟨rfl, by decide, by intro i; cases i <;> decide, by intro i; cases i <;> decide⟩

/-- HaltedIssueChangesNothing. -/
theorem witness_halted :
    State.halted { State.reset with fstat := 0xD061, script := [.issue 0xE0] } = true := by decide

/-- IdleStepChangesNothing. -/
theorem witness_idle : State.reset.script = [] := rfl

/-- HostRegisterMoves, HostMemoryMoves, ResetMoveClearsFaultAndCursor: each move at the end of its range. -/
theorem witness_hostMoves :
    (State.reset.prepend (.regWrite 6 0xFFFFFFFFFFFFFFFF)).script = [.regWrite 6 0xFFFFFFFFFFFFFFFF] ∧
    (State.reset.prepend (.regRead 0)).script = [.regRead 0] ∧
    (State.reset.prepend (.memWrite 0xFFFFFFFFFFFFFFFF 0)).script = [.memWrite 0xFFFFFFFFFFFFFFFF 0] ∧
    (State.reset.prepend (.memRead 0)).script = [.memRead 0] ∧
    (State.reset.prepend .reset).script = [.reset] := by decide

/-- CsrReadAnswers: each clause, at the ends of its range of `j`. -/
theorem witness_csrRead :
    (State.reset.prepend (.csrRead 0)).script = [.csrRead 0] ∧ (State.reset.prepend (.csrRead 1)).script = [.csrRead 1] ∧
    ((reading 2 false []).prepend (.csrRead 2)).nbAct = true ∧ ((reading 2 false []).prepend (.csrRead 5)).nbAct = true ∧
    (State.reset.prepend (.csrRead 2)).nbAct = false ∧ (State.reset.prepend (.csrRead 5)).nbAct = false ∧
    (State.reset.prepend (.csrRead 6)).script = [.csrRead 6] := by decide

/-- StepKeepsTheInvariant, CoreAlwaysAnswers: a state with a live stream cursor that ends at address 2^64 has the
invariant, and steps. -/
theorem witness_invariant :
    State.Inv { reading 2 false [0x01, 0x07] with nbBase := 0xFFFFFFFFFFFFFFFE, script := [.issue 0xD0] } ∧
    ∃ t, step { reading 2 false [0x01, 0x07] with nbBase := 0xFFFFFFFFFFFFFFFE, script := [.issue 0xD0] } = .next t :=
  ⟨⟨by decide, by decide, by decide, by decide⟩, ⟨_, next_of_after rfl⟩⟩

/-- FaultEntryIsPrecise: a command that answers OK and one that faults. -/
theorem witness_faultEntry :
    (∃ t, exec .pkuU8 (at100 1 0 0 0 []) = .next t ∧ t.reply = .status 0) ∧
    ∃ t, exec .pkuU8 (at100 0 0 0 0 []) = .next t ∧ t.reply = .status (causeCode .overrun) :=
  ⟨answers (by decide), answers (by decide)⟩

/-- CommandRaisesOnlyItsCauses, EveryListedFaultCanBeRaised. -/
theorem witness_causes :
    (∃ t, exec .nbend State.reset = .next t ∧ t.reply = .status (causeCode .nbInactive)) ∧
      Cause.nbInactive ∈ mayRaise .nbend :=
  ⟨answers (by decide), by decide⟩

/-- FstatChangesOnlyAtFaultOrReset, StreamCursorRegistersHaveTheirWriters: a step that changes FSTAT, and one that
changes NB_CTL, NB_BASE and NB_END. -/
theorem witness_statusWriters :
    (∃ t, step (State.reset.withFetchWord 8 0xE0) = .next t ∧ t.reply = .status 7) ∧
    (∃ t, step ((at100 6 0 0 3 [0x92, 0x01]).withFetchWord 8 0xC0) = .next t ∧ t.reply = .status 0) ∧
    (after (step ((at100 6 0 0 3 [0x92, 0x01]).withFetchWord 8 0xC0))).map (fun t => (t.nbCtl, t.nbBase, t.nbEnd)) =
      some (1, 0x100, 6) :=
  ⟨answers (by decide), answers (by decide), by decide⟩

/-- RegistersFollowTheTable: NPMK reads CODE and AUX and writes VAL; each clause has a register, and a faulting command
has a next state. -/
theorem witness_registersFollow :
    (2 : Fin 7) ∉ readsX .npmk ∧ (2 : Fin 7) ∉ writesX .npmk ∧ (0 : Fin 7) ∉ readsX .npmk ∧ (0 : Fin 7) ∈ writesX .npmk ∧
    (∃ t, exec .npmk State.reset = .next t ∧ t.reply = .status 0) ∧
    ∃ t, exec .nbend State.reset = .next t ∧ t.reply = .status 7 :=
  ⟨by decide, by decide, by decide, by decide, answers (by decide), answers (by decide)⟩

/-- WritesStayInTheWindow: a command that changes the byte at 0x100. -/
theorem witness_write :
    (after (exec .pkuU8 (at100 1 7 0 0 []))).map (fun t => t.mem.read 0x100) = some 7 ∧
      (at100 1 7 0 0 []).mem.read 0x100 = 0 := by decide

/-- ReadsStayInTheWindow: memories that agree in reach and differ outside it, for a cursor command and for NBNXT. -/
theorem witness_readsInWindow :
    State.StreamCursorOk (at100 1 0 1 0 [7]) ∧ State.StreamCursorOk (reading 2 false [0x91, 0xFF]) ∧
    (∃ t, exec .upiU8 (at100 1 0 1 0 [7]) = .next t ∧ t.reply = .status 0) ∧
    (∃ t, exec .nbnxtU8 (reading 2 false [0x91, 0xFF]) = .next t ∧ t.reply = .status 0) ∧
    (∀ a, State.InReach (at100 1 0 1 0 [7]) .upiU8 a →
      Memory.read [(0x100, 7), (0x101, 9)] a = (at100 1 0 1 0 [7]).mem.read a) ∧
    ∀ a, State.InReach (reading 2 false [0x91, 0xFF]) .nbnxtU8 a →
      Memory.read [(0x100, 0x91), (0x101, 0xFF), (0x102, 9)] a = (reading 2 false [0x91, 0xFF]).mem.read a := by
  refine ⟨by decide, by decide, answers (by decide), answers (by decide), ?_, ?_⟩
  · intro a h
    have h : 0x100 + 0 ≤ a ∧ a < 0x100 + 1 := h
    obtain rfl : a = 0x100 := by omega
    decide
  · intro a h
    have h : 0x100 ≤ a ∧ a < 0x100 + 2 := h
    have : a = 0x100 ∨ a = 0x101 := by omega
    rcases this with rfl | rfl <;> decide

/-- NpmkMakesThePairByte, NpfstNpsndTakeThePairApart, PackFloatCopiesThePattern, ScanSumsTheEffectiveWidths,
NbendReturnsTheEnd: a CORE that is not halted, and one that is. -/
theorem witness_notHalted :
    State.reset.halted = false ∧ State.halted { State.reset with fstat := 0xD061 } = true := by decide

/-- PackUnsignedStoresTheFewestBytes: 255 takes one byte and 256 two; a window filled exactly, one byte short, and the
two ways of an ill-formed cursor, each one past its bound. -/
theorem witness_packUnsigned :
    (255 = (at100 1 255 0 0 []).val.toNat % 256 ^ 1 ∧ 255 < 256 ^ 1) ∧
    (256 = (at100 2 256 0 0 []).val.toNat % 256 ^ 2 ∧ 256 < 256 ^ 2 ∧ ∀ k, 1 ≤ k → 256 < 256 ^ k → 2 ≤ k) ∧
    State.CursorWellFormed (at100 2 256 0 0 []) ∧ (at100 2 256 0 0 []).cpos.toNat + 2 ≤ (at100 2 256 0 0 []).clen.toNat ∧
    State.CursorWellFormed (at100 1 256 0 0 []) ∧ (at100 1 256 0 0 []).clen.toNat < (at100 1 256 0 0 []).cpos.toNat + 2 ∧
    ¬ State.CursorWellFormed { at100 4 0 0 0 [] with cpos := 5 } ∧
    ¬ State.CursorWellFormed { State.reset with cbase := 0xFFFFFFFFFFFFFFFF, clen := 2 } := by
  refine ⟨by decide, ⟨by decide, by decide, ?_⟩, by decide, by decide, by decide, by decide, by decide, by decide⟩
  intro k h1 h2
  by_contra h3
  obtain rfl : k = 1 := by omega
  omega

/-- PackSignedNegatesBelowTheThreshold: -(2^24) is raw with four bytes, -(2^24) + 1 is negated with three, 0 is raw. -/
theorem witness_packSigned :
    (BitVec.setWidth 32 (at100 4 0xFF000000 0 0 []).val).toInt = -(2 ^ 24) ∧ 0xFF000000 < 256 ^ 4 ∧
    (∀ k, 1 ≤ k → 0xFF000000 < 256 ^ k → 4 ≤ k) ∧
    (BitVec.setWidth 32 (at100 4 0xFF000001 0 0 []).val).toInt = -(2 ^ 24) + 1 ∧ 0xFFFFFF < 256 ^ 3 ∧
    (∀ k, 1 ≤ k → 0xFFFFFF < 256 ^ k → 3 ≤ k) ∧
    (BitVec.setWidth 64 (at100 4 0 0 0 []).val).toInt = 0 ∧ State.CursorWellFormed (at100 4 0xFF000001 0 0 []) ∧
    (at100 4 0xFF000001 0 0 []).cpos.toNat + 3 ≤ (at100 4 0xFF000001 0 0 []).clen.toNat := by
  refine ⟨by decide, by decide, ?_, by decide, by decide, ?_, by decide, by decide, by decide⟩
  · intro k h1 h2
    by_contra h3
    have : k = 1 ∨ k = 2 ∨ k = 3 := by omega
    rcases this with rfl | rfl | rfl <;> omega
  · intro k h1 h2
    by_contra h3
    have : k = 1 ∨ k = 2 := by omega
    rcases this with rfl | rfl <;> omega

/-- PackFloatCopiesThePattern: the window filled exactly, one byte short, and an ill-formed cursor. -/
theorem witness_packFloat :
    (State.CursorWellFormed (at100 4 0 0 0 []) ∧ (at100 4 0 0 0 []).cpos.toNat + 4 ≤ (at100 4 0 0 0 []).clen.toNat) ∧
    (State.CursorWellFormed (at100 7 0 0 0 []) ∧ (at100 7 0 0 0 []).clen.toNat < (at100 7 0 0 0 []).cpos.toNat + 8) ∧
    ¬ State.CursorWellFormed { at100 4 0 0 0 [] with cpos := 5 } := by decide

/-- EncodedWidthIsTheCodesWidth, RoundTripGivesTheValueBack, and the second clause of NarrowerTypesReadBack. -/
theorem witness_encodeOk :
    (∃ t, exec .pksI64 (at100 8 0xFF00000000000001 0 0 []) = .next t ∧ t.reply = .status 0) ∧
    (∃ t, exec .pkuU64 (at100 8 0x100000000 0 0 []) = .next t ∧ t.reply = .status 0) ∧ family .pksI64 = .encoder :=
  ⟨answers (by decide), answers (by decide), rfl⟩

/-- NarrowerTypesReadBack at both ends of I8 and I16; WiderSignedTypeDiffers at -(2^24). -/
theorem witness_otherWidths :
    (BitVec.setWidth 32 (at100 4 0xFFFFFF80 0 0 []).val = BitVec.ofInt 32 (-128) ∧
      ∃ t, exec .pksI32 (at100 4 0xFFFFFF80 0 0 []) = .next t ∧ t.reply = .status 0) ∧
    (BitVec.setWidth 32 (at100 4 32767 0 0 []).val = BitVec.ofInt 32 32767 ∧
      ∃ t, exec .pksI32 (at100 4 32767 0 0 []) = .next t ∧ t.reply = .status 0) ∧
    (BitVec.setWidth 32 (at100 4 0xFF000000 0 0 []).val).toInt = -(2 ^ 24) ∧
      ∃ t, exec .pksI32 (at100 4 0xFF000000 0 0 []) = .next t ∧ t.reply = .status 0 :=
  ⟨⟨by decide, answers (by decide)⟩, ⟨by decide, answers (by decide)⟩, by decide, answers (by decide)⟩

/-- ScanSumsTheEffectiveWidths: each clause at the end of its range (the count 2^28 - 1, which needs 2^27 array bytes). -/
theorem witness_scan :
    ¬ State.CursorWellFormed { at100 4 0 0 0 [] with cpos := 5 } ∧
    ((at100 4 0 0 0x10000000 []).cnt.toNat > 2 ^ 28 - 1 ∧ State.CursorWellFormed (at100 4 0 0 0x10000000 [])) ∧
    ((at100 (2 ^ 27) 0 0 0xFFFFFFF []).cnt.toNat ≤ 2 ^ 28 - 1 ∧
      (at100 (2 ^ 27) 0 0 0xFFFFFFF []).cpos.toNat + ((at100 (2 ^ 27) 0 0 0xFFFFFFF []).cnt.toNat + 1) / 2 ≤
        (at100 (2 ^ 27) 0 0 0xFFFFFFF []).clen.toNat) ∧
    (State.CursorWellFormed (at100 1 0 0 3 []) ∧ (at100 1 0 0 3 []).clen.toNat < (at100 1 0 0 3 []).cpos.toNat + (3 + 1) / 2) ∧
    ∃ t, exec .scan (at100 0 0 0 0 []) = .next t ∧ t.reply = .status 0 :=
  ⟨by decide, by decide, by decide, by decide, answers (by decide)⟩

/-- UnusedNibbleHasNoEffect: memories that differ in the high nibble of the last byte alone. -/
theorem witness_unusedNibble :
    (at100 2 0 0 3 [0x92, 0x01]).cnt.toNat % 2 = 1 ∧ (at100 2 0 0 3 [0x92, 0x01]).cursorAddr + 3 / 2 = 0x101 ∧
    (∀ a, a ≠ 0x101 → Memory.read [(0x100, 0x92), (0x101, 0xF1)] a = (at100 2 0 0 3 [0x92, 0x01]).mem.read a) ∧
    (Memory.read [(0x100, 0x92), (0x101, 0xF1)] 0x101).toNat % 16 =
      ((at100 2 0 0 3 [0x92, 0x01]).mem.read 0x101).toNat % 16 ∧
    ∃ t, exec .scan (at100 2 0 0 3 [0x92, 0x01]) = .next t ∧ t.reply = .status 0 := by
  refine ⟨by decide, by decide, ?_, by decide, answers (by decide)⟩
  intro a ha
  have e : (at100 2 0 0 3 [0x92, 0x01]).mem = [(0x100, 0x92), (0x101, 0x01)] := by decide
  rw [e]
  simp only [Memory.read]
  rw [if_neg (Ne.symm ha), if_neg (Ne.symm ha)]

/-- UnpackIntegerReadsBack: codes 0, 8 and 9 (one byte), with room exactly and one byte short. -/
theorem witness_unpackInteger :
    ¬ State.CursorWellFormed { at100 4 0 0 0 [] with cpos := 5 } ∧
    (State.CursorWellFormed (at100 0 0 0x10 0 []) ∧ (at100 0 0 0x10 0 []).code.toNat % 16 = 0) ∧
    (intWidth 8 = 8 ∧ (at100 7 0 8 0 []).clen.toNat < (at100 7 0 8 0 []).cpos.toNat + 8) ∧
    (intWidth 9 = 1 ∧ (at100 1 0 9 0 [5]).code.toNat % 16 = 9 ∧
      (at100 1 0 9 0 [5]).cpos.toNat + 1 ≤ (at100 1 0 9 0 [5]).clen.toNat) := by decide

/-- UnpackFloatKeepsTheDispatch: code 0 (16 bytes), the matched code 4, and room exactly or one byte short. -/
theorem witness_unpackFloat :
    ¬ State.CursorWellFormed { at100 4 0 0 0 [] with cpos := 5 } ∧
    (State.CursorWellFormed (at100 15 0 0 0 []) ∧ (at100 15 0 0 0 []).clen.toNat < (at100 15 0 0 0 []).cpos.toNat + 16) ∧
    (State.CursorWellFormed (at100 4 0 4 0 []) ∧ (at100 4 0 4 0 []).code.toNat % 16 = 4 ∧
      (at100 4 0 4 0 []).cpos.toNat + 4 ≤ (at100 4 0 4 0 []).clen.toNat) ∧
    ((at100 16 0 0 0 []).code.toNat % 16 = 0 ∧ (at100 16 0 0 0 []).cpos.toNat + 16 ≤ (at100 16 0 0 0 []).clen.toNat) := by
  decide

/-- NbnewConstructsTheCursor: the five clauses, at the bounds of the example of R183. -/
theorem witness_nbnew :
    ¬ State.CursorWellFormed { at100 4 0 0 0 [] with cpos := 5 } ∧
    (at100 4 0 0 0x10000000 []).cnt.toNat > 2 ^ 28 - 1 ∧
    ((at100 1 0 0 3 []).clen.toNat < (at100 1 0 0 3 []).cpos.toNat + 2 ∧ State.CursorWellFormed (at100 1 0 0 3 [])) ∧
    (scanTotal (at100 5 0 0 3 [0x92, 0x01]).mem 0x100 3 = 4 ∧ (at100 5 0 0 3 [0x92, 0x01]).clen.toNat < 0 + 2 + 4) ∧
    ∃ t, exec .nbnew (at100 6 0 0 3 [0x92, 0x01]) = .next t ∧ t.reply = .status 0 :=
  ⟨by decide, by decide, by decide, by decide, answers (by decide)⟩

/-- NextIntegerWalksTheStreams: the five clauses, each at its bound. -/
theorem witness_nextInteger :
    State.reset.nbAct = false ∧ State.StreamCursorOk State.reset ∧
    ((reading 1 false []).nbVal.toNat ≥ (reading 1 false []).nbEnd.toNat ∧ State.StreamCursorOk (reading 1 false [])) ∧
    ((reading 2 false [0x10]).currentCode = 0 ∧ (reading 2 false [0x10]).nbVal.toNat < (reading 2 false [0x10]).nbEnd.toNat) ∧
    ((reading 2 false [0x02]).currentCode = 2 ∧ (reading 2 false [0x02]).nbEnd.toNat < (reading 2 false [0x02]).nbVal.toNat + 2) ∧
    ((reading 9 true [0x80]).currentCode = 8 ∧ (reading 9 true [0x80]).nbAct = true ∧
      (reading 9 true [0x80]).nbVal.toNat + intWidth 8 ≤ (reading 9 true [0x80]).nbEnd.toNat ∧
      State.StreamCursorOk (reading 9 true [0x80])) := by decide

/-- NextFloatWalksTheStreams: the five clauses, each at its bound. -/
theorem witness_nextFloat :
    State.reset.nbAct = false ∧ State.StreamCursorOk State.reset ∧
    (reading 1 false []).nbVal.toNat ≥ (reading 1 false []).nbEnd.toNat ∧
    ((reading 16 false []).currentCode = 0 ∧ (reading 16 false []).nbEnd.toNat < (reading 16 false []).nbVal.toNat + 16) ∧
    ((reading 5 false [0x04]).currentCode = 4 ∧ (reading 5 false [0x04]).nbVal.toNat + 4 ≤ (reading 5 false [0x04]).nbEnd.toNat ∧
      State.StreamCursorOk (reading 5 false [0x04])) ∧
    ((reading 17 false []).currentCode = 0 ∧ (reading 17 false []).nbVal.toNat + 16 ≤ (reading 17 false []).nbEnd.toNat) := by
  decide

/-- NbendReturnsTheEnd: the three clauses. -/
theorem witness_nbend :
    State.reset.nbAct = false ∧ (reading 6 false []).nbAct = true ∧
      ∃ t, exec .nbnxtU8 (reading 6 false [0x01]) = .next t ∧ t.reply = .status 0 :=
  ⟨by decide, by decide, answers (by decide)⟩

/-- WalkKeepsTheStreamsInStep: the record of R183 and the first of its three values. -/
theorem witness_walk :
    (∃ t, exec .nbnew (at100 6 0 0 3 [0x92, 0x01, 0x2C, 0x01, 0x05, 0x00]) = .next t ∧ t.reply = .status 0) ∧
    [Instr.nbnxtU32].length ≤ (at100 6 0 0 3 [0x92, 0x01, 0x2C, 0x01, 0x05, 0x00]).cnt.toNat ∧
    ∀ j i, [Instr.nbnxtU32][j]? = some i →
      family i = .nextInteger ∧ nib (at100 6 0 0 3 [0x92, 0x01, 0x2C, 0x01, 0x05, 0x00]).mem 0x100 j ≠ 0 := by
  refine ⟨answers (by decide), by decide, ?_⟩
  intro j i h
  match j with
  | 0 => cases h; decide
  | j + 1 => simp at h

/-- ScanAgreesWithTheEncoder, StreamCursorReproducesTheSequence: a record of one value, -5 under PKS.I32, its pair byte
at offset 0 and its value byte at offset 1. -/
theorem witness_sequence :
    (packAll [(.pksI32, 0xFFFFFFFB)] { at100 2 0 0 0 [] with cpos := 1 }).map (fun r => (r.1, r.2.cpos, r.2.mem)) =
      some ([9], 2, [(0x101, 5)]) ∧
    State.CursorWellFormed { at100 2 0 0 0 [] with cpos := 1 } ∧
    (∀ j c, [(9 : Nibble)][j]? = some c → nib [(0x100, 9), (0x101, 5)] 0x100 j = c) ∧
    ∀ a, 0x101 ≤ a → a < 0x102 → Memory.read [(0x100, 9), (0x101, 5)] a = Memory.read [(0x101, 5)] a := by
  refine ⟨by decide, by decide, ?_, ?_⟩
  · intro j c h
    match j with
    | 0 => cases h; decide
    | j + 1 => simp at h
  · intro a h1 h2
    obtain rfl : a = 0x101 := by omega
    decide

end Sys2Proof.Tests
end

/-! ## The state: what each move of the host can do, and what a command reads and writes

The lemmas of this part speak of State and of one step; the settled statements of 10_state.md stand at its end. -/

namespace Sys2Proof.Machine

/-! ### FSTAT and NB_CTL as they are written (10_state.md R28, R29) -/

/-- A field of FSTAT after fault entry, as a number. -/
theorem fstatWord_field (c : Cause) (cmd : Byte) (lo len : Nat) :
    ((fstatWord c cmd).extractLsb' lo len).toNat =
      (cmd.toNat * 256 + (causeCode c).toNat * 16 + 1) / 2 ^ lo % 2 ^ len := by
  have hcmd := cmd.isLt
  have hcause := (causeCode c).isLt
  rw [fstatWord_eq, BitVec.extractLsb'_toNat, Nat.shiftRight_eq_div_pow, BitVec.toNat_ofNat,
    Nat.mod_eq_of_lt (a := _ + 1) (by omega)]

@[simp] theorem State.takeFault_fstatCause (s : State) (c : Cause) (cmd : Byte) :
    (s.takeFault c cmd).fstatCause = causeCode c := by
  have hcause := (causeCode c).isLt
  apply BitVec.eq_of_toNat_eq
  rw [State.fstatCause, State.takeFault_fstat, fstatWord_field]
  omega

@[simp] theorem State.takeFault_fstatCmd (s : State) (c : Cause) (cmd : Byte) :
    (s.takeFault c cmd).fstatCmd = cmd := by
  have hcmd := cmd.isLt
  have hcause := (causeCode c).isLt
  apply BitVec.eq_of_toNat_eq
  rw [State.fstatCmd, State.takeFault_fstat, fstatWord_field]
  omega

theorem causeCode_bounds (c : Cause) : 1 ≤ (causeCode c).toNat ∧ (causeCode c).toNat ≤ 7 := by
  cases c <;> decide

theorem causeCode_ne_zero (c : Cause) : causeCode c ≠ 0 := by cases c <;> decide

/-- Fault entry leaves FSTAT in a form R28 allows: no reserved bit is set and the cause is one of R211. -/
theorem State.takeFault_fstatLegal (s : State) (c : Cause) (cmd : Byte) : (s.takeFault c cmd).FstatLegal := by
  have hcmd := cmd.isLt
  have hcause := causeCode_bounds c
  have hlow : (s.takeFault c cmd).fstat.extractLsb' 1 3 = 0 := by
    apply BitVec.eq_of_toNat_eq
    rw [State.takeFault_fstat, fstatWord_field]
    change _ = 0
    omega
  have hhigh : (s.takeFault c cmd).fstat.extractLsb' 16 48 = 0 := by
    apply BitVec.eq_of_toNat_eq
    rw [State.takeFault_fstat, fstatWord_field]
    change _ = 0
    omega
  refine ⟨hlow, hhigh, ?_, ?_, ?_⟩
  · simpa using hcause.2
  · simp
  · simpa using causeCode_ne_zero c

theorem nbCtlWord_reserved (act half : Bool) : (nbCtlWord act half).extractLsb' 2 62 = 0 := by
  cases act <;> cases half <;> rfl

/-! ### Status registers that are the same in two states -/

/-- The five stream cursor registers of `t` are those of `s` (10_state.md R29 to R33). -/
structure State.StreamKept (s t : State) : Prop where
  nbCtl : t.nbCtl = s.nbCtl
  nbBase : t.nbBase = s.nbBase
  nbPair : t.nbPair = s.nbPair
  nbVal : t.nbVal = s.nbVal
  nbEnd : t.nbEnd = s.nbEnd

theorem State.FstatLegal.of_fstat_eq {s t : State} (hs : s.FstatLegal) (h : t.fstat = s.fstat) : t.FstatLegal := by
  simpa only [State.FstatLegal, State.halted, State.fstatCause, State.fstatCmd, h] using hs

theorem State.NbCtlLegal.of_streamKept {s t : State} (hs : s.NbCtlLegal) (h : s.StreamKept t) : t.NbCtlLegal := by
  simpa only [State.NbCtlLegal, h.nbCtl] using hs

theorem State.StreamCursorOk.of_streamKept {s t : State} (hs : s.StreamCursorOk) (h : s.StreamKept t) :
    t.StreamCursorOk := by
  simpa only [State.StreamCursorOk, State.nbAct, h.nbCtl, h.nbBase, h.nbPair, h.nbVal, h.nbEnd] using hs

/-- The invariant carries over to a state with the same status registers whose memory is canonical. -/
theorem State.Inv.of_statusKept {s t : State} (hs : s.Inv) (hf : t.fstat = s.fstat) (hk : s.StreamKept t)
    (hm : Memory.wf t.mem = true) : t.Inv :=
  ⟨hm, hs.fstat_legal.of_fstat_eq hf, hs.nbCtl_legal.of_streamKept hk, hs.stream_cursor.of_streamKept hk⟩

/-! ### What the body of a command can do -/

theorem bind_eq_ok {α β : Type} {x : Except Abort α} {f : α → Except Abort β} {b : β}
    (h : (x >>= f) = .ok b) : ∃ a, x = .ok a ∧ f a = .ok b := by
  cases x with
  | ok a => exact ⟨a, rfl, h⟩
  | error e => cases h

theorem raiseIf_eq_ok {p : Bool} {c : Cause} {u : Unit} (h : raiseIf p c = .ok u) : p = false := by
  cases p with
  | false => rfl
  | true => cases h

/-- Everything the body of `i` can have done where it runs to its end. Only an encode command writes memory, only NBNEW
and NBNXT write stream cursor registers, and FSTAT is written by none. -/
inductive BodyEffect (i : Instr) (s : State) : State → Prop where
  /-- Operand registers alone (Nibble Pair Storage, SCAN, the Decoder, NBEND). -/
  | operands (v c p : Word) (d : Nat) : BodyEffect i s { s with val := v, code := c, cpos := p, draws := d }
  /-- `n` bytes at the cursor, inside the window (41_encoder.md R110). -/
  | store (u n c : Nat) (hi : family i = .encoder) (hc : s.CursorWellFormed)
      (hroom : s.cpos.toNat + n ≤ s.clen.toNat) :
      BodyEffect i s (((s.setMem (s.mem.writeLE s.cursorAddr n u)).advance n).setCode (BitVec.ofNat 64 c))
  /-- A stream cursor constructed over a record inside the window (44_stream_cursor.md R183). -/
  | opened (P total : Nat) (hi : i = .nbnew) (hc : s.CursorWellFormed)
      (hroom : s.cpos.toNat + P + total ≤ s.clen.toNat) : BodyEffect i s (s.openCursor P total)
  /-- A value decoded before NB_END and the stream cursor moved past it (44_stream_cursor.md R190). -/
  | moved (t : TypeTag) (c : Nibble) (r : Option Word) (k : Nat) (hi : isNext i = true) (hact : s.nbAct = true)
      (hd : decodeAs t s.mem s.nbBase.toNat s.nbEnd.toNat s.nbVal.toNat c = .ok (r, k)) :
      BodyEffect i s ((s.setResult r).stepCursor k)

theorem makePair_effect {i : Instr} {s u : State} (h : makePair s = .ok u) : BodyEffect i s u := by
  cases h
  exact .operands _ s.code s.cpos s.draws

theorem firstOfPair_effect {i : Instr} {s u : State} (h : firstOfPair s = .ok u) : BodyEffect i s u := by
  cases h
  exact .operands s.val _ s.cpos s.draws

theorem secondOfPair_effect {i : Instr} {s u : State} (h : secondOfPair s = .ok u) : BodyEffect i s u := by
  cases h
  exact .operands s.val _ s.cpos s.draws

theorem encoder_effect {i : Instr} {s u : State} (hi : family i = .encoder) (h : bodyOf i s = .ok u) :
    BodyEffect i s u := by
  rw [bodyOf_encoder hi, encodeAs_eq] at h
  split_ifs at h with hc hroom
  cases h
  exact .store _ _ _ hi hc hroom

theorem scanSize_effect {i : Instr} {s u : State} (h : scanSize s = .ok u) : BodyEffect i s u := by
  obtain ⟨total, -, hu⟩ := bind_eq_ok h
  cases hu
  exact .operands _ s.code s.cpos s.draws

theorem unpack_effect {i : Instr} {t : TypeTag} {s u : State} (h : unpack t s = .ok u) : BodyEffect i s u := by
  obtain ⟨-, -, h⟩ := bind_eq_ok h
  obtain ⟨⟨r, k⟩, -, hu⟩ := bind_eq_ok h
  cases hu
  cases r with
  | some v => exact .operands v s.code _ s.draws
  | none => exact .operands _ s.code _ (s.draws + 1)

theorem construct_effect {s u : State} (h : construct s = .ok u) : BodyEffect .nbnew s u := by
  rw [construct_eq] at h
  split_ifs at h with hc hn hroom
  cases h
  exact .opened _ _ rfl hc hroom

theorem getNext_effect {i : Instr} {t : TypeTag} {s u : State} (hi : isNext i = true) (h : getNext t s = .ok u) :
    BodyEffect i s u := by
  obtain ⟨_, hact, h⟩ := bind_eq_ok h
  obtain ⟨-, -, h⟩ := bind_eq_ok h
  obtain ⟨c, -, h⟩ := bind_eq_ok h
  obtain ⟨⟨r, k⟩, hd, hu⟩ := bind_eq_ok h
  cases hu
  exact .moved t c r k hi (by simpa using raiseIf_eq_ok hact) hd

theorem endOfArguments_effect {i : Instr} {s u : State} (h : endOfArguments s = .ok u) : BodyEffect i s u := by
  obtain ⟨-, -, hu⟩ := bind_eq_ok h
  cases hu
  exact .operands _ s.code s.cpos s.draws

theorem bodyOf_effect : ∀ {i : Instr} {s u : State}, bodyOf i s = .ok u → BodyEffect i s u
  | .npmk, _, _, h => makePair_effect h
  | .npfst, _, _, h => firstOfPair_effect h
  | .npsnd, _, _, h => secondOfPair_effect h
  | .pkuU8, _, _, h | .pkuU16, _, _, h | .pkuU32, _, _, h | .pkuU64, _, _, h | .pksI32, _, _, h | .pksI64, _, _, h
  | .pkfF32, _, _, h | .pkfF64, _, _, h | .pkp, _, _, h => encoder_effect rfl h
  | .scan, _, _, h => scanSize_effect h
  | .upiU8, _, _, h | .upiU16, _, _, h | .upiU32, _, _, h | .upiU64, _, _, h | .upiI8, _, _, h | .upiI16, _, _, h
  | .upiI32, _, _, h | .upiI64, _, _, h | .upfF32, _, _, h | .upfF64, _, _, h | .upp, _, _, h => unpack_effect h
  | .nbnew, _, _, h => construct_effect h
  | .nbnxtU8, _, _, h | .nbnxtU16, _, _, h | .nbnxtU32, _, _, h | .nbnxtU64, _, _, h | .nbnxtI8, _, _, h
  | .nbnxtI16, _, _, h | .nbnxtI32, _, _, h | .nbnxtI64, _, _, h | .nbnxtF32, _, _, h | .nbnxtF64, _, _, h
  | .nbnxtPtr, _, _, h => getNext_effect rfl h
  | .nbend, _, _, h => endOfArguments_effect h

/-- No body writes FSTAT: fault entry alone does (10_state.md R28). -/
theorem BodyEffect.fstat_eq {i : Instr} {s u : State} (h : BodyEffect i s u) : u.fstat = s.fstat := by
  cases h <;> simp

/-! ### What one step can do -/

/-- A byte that decodes is the byte of what it decodes to (30_encoding.md R83). -/
theorem encode_of_decode {b : Byte} {i : Instr} (h : decode b = .ok i) : encode i = b := by
  have hall : ∀ b : Byte, ((decode b).map encode).toOption.getD b = b := by decide
  simpa [h, Except.map, Except.toOption] using hall b

/-- The state in which the next host move is made: that move is off the script. -/
def State.taken (s : State) : State := { s with script := s.script.tail }

/-- Everything one step can do, by what it does to the status registers and memory. -/
inductive StepEffect (s : State) : State → Prop where
  /-- Status registers and memory as they were: idle, a register move, a memory read, an issue on a halted CORE. -/
  | kept {t : State} (hf : t.fstat = s.fstat) (hk : s.StreamKept t) (hm : t.mem = s.mem) : StepEffect s t
  | hostWrite (a : Word) (b : Byte) : StepEffect s (hostMemWrite a b s.taken)
  | reset (hmv : s.script.head? = some .reset) : StepEffect s s.taken.hostReset
  | fault (cmd : Byte) (c : Cause) (hmv : s.script.head? = some (.issue cmd)) (hs : s.halted = false) :
      StepEffect s (s.taken.takeFault c cmd)
  | completed (i : Instr) {u : State} (hmv : s.script.head? = some (.issue (encode i))) (hs : s.halted = false)
      (hu : BodyEffect i s.taken u) : StepEffect s (u.answer (.status statusOk))

theorem hostCsrRead_cases (j : Nat) (s : State) :
    (∃ v, hostCsrRead j s = (s.drawn 1).answer (.word v)) ∨ hostCsrRead j s = s.answer (.word (s.csr j)) := by
  unfold hostCsrRead
  split
  · exact .inl ⟨_, rfl⟩
  · exact .inr rfl

/-- An issued byte is halted out, or takes one fault, or runs a command to its end. -/
theorem hostIssue_next {cmd : Byte} {s t : State} (h : hostIssue cmd s = .next t) :
    (t = s.answer (.status statusHalted)) ∨
    (s.halted = false ∧ ∃ c, t = s.takeFault c cmd) ∨
    (s.halted = false ∧ ∃ i u, encode i = cmd ∧ BodyEffect i s u ∧ t = u.answer (.status statusOk)) := by
  unfold hostIssue at h
  split at h
  next i hd =>
    obtain ⟨-, rfl⟩ | ⟨hs, u, hb, rfl⟩ | ⟨hs, c, -, rfl⟩ := exec_next h
    · exact .inl rfl
    · exact .inr (.inr ⟨hs, i, u, encode_of_decode hd, bodyOf_effect hb, rfl⟩)
    · exact .inr (.inl ⟨hs, c, by rw [encode_of_decode hd]⟩)
  next =>
    obtain ⟨-, rfl⟩ | ⟨-, u, hb, -⟩ | ⟨hs, c, -, rfl⟩ := command_next h
    · exact .inl rfl
    · cases hb
    · exact .inr (.inl ⟨hs, c, rfl⟩)

theorem step_nil {s : State} (h : s.script = []) : step s = .next s := by simp [step, nextMove, h]

theorem step_cons {s : State} {mv : HostMove} {rest : List HostMove} (h : s.script = mv :: rest) :
    step s = hostMove mv { s with script := rest } := by simp [step, nextMove, h]

theorem State.taken_of_script {s : State} {mv : HostMove} {rest : List HostMove} (h : s.script = mv :: rest) :
    s.taken = { s with script := rest } := by simp [State.taken, h]

theorem step_effect {s t : State} (h : step s = .next t) : StepEffect s t := by
  cases hscript : s.script with
  | nil =>
    rw [step_nil hscript] at h
    cases h
    exact .kept rfl ⟨rfl, rfl, rfl, rfl, rfl⟩ rfl
  | cons mv rest =>
    have hmv : s.script.head? = some mv := by rw [hscript]; rfl
    rw [step_cons hscript, ← State.taken_of_script hscript] at h
    cases mv with
    | regWrite i v =>
      cases h
      exact .kept (by simp [hostRegWrite, State.taken])
        (by constructor <;> simp [hostRegWrite, State.taken]) (by simp [hostRegWrite, State.taken])
    | regRead i =>
      cases h
      exact .kept rfl ⟨rfl, rfl, rfl, rfl, rfl⟩ rfl
    | csrRead j =>
      cases h
      obtain ⟨v, e⟩ | e := hostCsrRead_cases j s.taken <;> rw [e] <;> exact .kept rfl ⟨rfl, rfl, rfl, rfl, rfl⟩ rfl
    | issue cmd =>
      obtain rfl | ⟨hs, c, rfl⟩ | ⟨hs, i, u, rfl, hu, rfl⟩ := hostIssue_next h
      · exact .kept rfl ⟨rfl, rfl, rfl, rfl, rfl⟩ rfl
      · exact .fault cmd c hmv hs
      · exact .completed i hmv hs hu
    | memRead a =>
      cases h
      exact .kept rfl ⟨rfl, rfl, rfl, rfl, rfl⟩ rfl
    | memWrite a b =>
      cases h
      exact .hostWrite a b
    | reset =>
      cases h
      exact .reset hmv

/-! ### The invariant over a step (10_state.md R28, R29, R34) -/

/-- A decode that answers consumes at least one byte and stays within its limit (43_decoder.md R151, R163). -/
theorem decodeAs_ok_bounds {t : TypeTag} {m : Memory} {B L p : Nat} {c : Nibble} {r : Option Word} {k : Nat}
    (h : B + L ≤ 2 ^ 64) (hd : decodeAs t m B L p c = .ok (r, k)) : 1 ≤ k ∧ p + k ≤ L := by
  obtain ⟨-, he⟩ | he | ⟨r', k', he, hpos, -, hlim⟩ := decodeAs_cases t m p c h
  · rw [he] at hd
    cases hd
  · rw [he] at hd
    cases hd
  · rw [he] at hd
    cases hd
    exact ⟨hpos, hlim⟩

/-- The cursor that NBNEW constructs inside a well-formed window satisfies R34. -/
theorem State.openCursor_streamCursorOk {s : State} {P total : Nat} (hc : s.CursorWellFormed)
    (hroom : s.cpos.toNat + P + total ≤ s.clen.toNat) : (s.openCursor P total).StreamCursorOk := by
  intro _
  obtain ⟨-, hbase⟩ := hc
  have hlen := s.clen.isLt
  simp only [openCursor_nbPair, openCursor_nbVal, openCursor_nbEnd, openCursor_nbBase, BitVec.toNat_ofNat]
  omega

/-- Moving past a value of at least one byte that ends by NB_END keeps R34: NB_PAIR moves by at most that one byte. -/
theorem State.stepCursor_streamCursorOk {s : State} {k : Nat} (hact : s.nbAct = true) (hs : s.StreamCursorOk)
    (hpos : 1 ≤ k) (hend : s.nbVal.toNat + k ≤ s.nbEnd.toNat) : (s.stepCursor k).StreamCursorOk := by
  intro _
  obtain ⟨hpair, -, hbase⟩ := hs hact
  have hlt := s.nbEnd.isLt
  simp only [stepCursor_nbPair, stepCursor_nbVal, stepCursor_nbEnd, stepCursor_nbBase, BitVec.toNat_ofNat]
  split
  · rw [BitVec.toNat_ofNat]
    omega
  · omega

/-- What a command that completes leaves has the invariant: an encode command writes inside the address space, NBNEW
opens a cursor inside the window, NBNXT moves within its record. -/
theorem BodyEffect.inv {i : Instr} {s u : State} (h : BodyEffect i s u) (hs : s.Inv) : u.Inv := by
  cases h with
  | operands v c p d => exact hs.of_statusKept rfl ⟨rfl, rfl, rfl, rfl, rfl⟩ hs.mem_wf
  | store v n c hi hc hroom =>
    refine hs.of_statusKept rfl ⟨rfl, rfl, rfl, rfl, rfl⟩ (Memory.wf_writeLE v ?_ hs.mem_wf)
    obtain ⟨-, hbase⟩ := hc
    unfold State.cursorAddr Config.addrLimit
    omega
  | opened P total hi hc hroom =>
    exact ⟨hs.mem_wf, hs.fstat_legal.of_fstat_eq rfl, nbCtlWord_reserved ..,
      State.openCursor_streamCursorOk hc hroom⟩
  | moved t c r k hi hact hd =>
    have hk : s.StreamKept (s.setResult r) := by constructor <;> simp
    have hact' : (s.setResult r).nbAct = true := by simpa [State.nbAct] using hact
    obtain ⟨hpos, hend⟩ := decodeAs_ok_bounds (hs.stream_cursor hact).2.2 hd
    exact ⟨by simpa using hs.mem_wf, hs.fstat_legal.of_fstat_eq (by simp), nbCtlWord_reserved ..,
      State.stepCursor_streamCursorOk hact' (hs.stream_cursor.of_streamKept hk) hpos (by simpa using hend)⟩

/-- Settles O12: memory is empty, FSTAT and NB_CTL are 0, and no stream cursor is active. -/
theorem resetStateHasTheInvariant : Obligations.ResetStateHasTheInvariant :=
  ⟨Memory.wf_reset, by decide, by decide, by decide⟩

/-- Reset leaves FSTAT and NB_CTL 0, as the reset state has them, and so no stream cursor (70_reset_and_hazards.md
R240). -/
theorem State.hostReset_inv {s : State} (hm : Memory.wf s.mem = true) : s.hostReset.Inv := by
  have hact : s.hostReset.nbAct = false := by simp [State.nbAct, State.hostReset]
  exact ⟨hm, resetStateHasTheInvariant.fstat_legal.of_fstat_eq rfl, resetStateHasTheInvariant.nbCtl_legal,
    fun h => absurd h (by simp [hact])⟩

theorem State.Inv.taken {s : State} (hs : s.Inv) : s.taken.Inv :=
  hs.of_statusKept rfl ⟨rfl, rfl, rfl, rfl, rfl⟩ hs.mem_wf

theorem State.Inv.answer {s : State} (hs : s.Inv) (r : Reply) : (s.answer r).Inv :=
  hs.of_statusKept rfl ⟨rfl, rfl, rfl, rfl, rfl⟩ hs.mem_wf

theorem StepEffect.inv {s t : State} (h : StepEffect s t) (hs : s.Inv) : t.Inv := by
  cases h with
  | kept hf hk hm => exact hs.of_statusKept hf hk (hm ▸ hs.mem_wf)
  | hostWrite a b =>
    exact hs.of_statusKept rfl ⟨rfl, rfl, rfl, rfl, rfl⟩ (Memory.wf_write b a.isLt hs.mem_wf)
  | reset hmv => exact State.hostReset_inv hs.mem_wf
  | fault cmd c hmv hn =>
    have hk : s.StreamKept (s.taken.takeFault c cmd) := ⟨rfl, rfl, rfl, rfl, rfl⟩
    exact ⟨hs.mem_wf, State.takeFault_fstatLegal .., hs.nbCtl_legal.of_streamKept hk,
      hs.stream_cursor.of_streamKept hk⟩
  | completed i hmv hn hu => exact (hu.inv hs.taken).answer _

/-- Settles O13: a step has one of the effects of `StepEffect`, and each keeps the invariant. -/
theorem stepKeepsTheInvariant : Obligations.StepKeepsTheInvariant := fun _ _ hs h => (step_effect h).inv hs

/-! ### The writers of the status registers (10_state.md R27, R28) -/

/-- Settles O19: among the effects of a step only Reset and fault entry write FSTAT. -/
theorem fstatChangesOnlyAtFaultOrReset : Obligations.FstatChangesOnlyAtFaultOrReset := by
  intro s t h
  cases step_effect h with
  | kept hf hk hm => exact .inl hf
  | hostWrite a b => exact .inl rfl
  | reset hmv => exact .inr (.inl ⟨hmv, rfl⟩)
  | fault cmd c hmv hs =>
    exact .inr (.inr ⟨cmd, c, hmv, hs, State.takeFault_halted .., State.takeFault_fstatCause ..,
      State.takeFault_fstatCmd ..⟩)
  | completed i hmv hs hu => exact .inl hu.fstat_eq

/-- A body writes stream cursor registers only as NBNEW or NBNXT, and NBNXT neither NB_BASE nor NB_END (R27). -/
theorem BodyEffect.stream_cases {i : Instr} {s u : State} (h : BodyEffect i s u) :
    s.StreamKept u ∨ i = .nbnew ∨ (isNext i = true ∧ u.nbBase = s.nbBase ∧ u.nbEnd = s.nbEnd) := by
  cases h with
  | operands v c p d => exact .inl ⟨rfl, rfl, rfl, rfl, rfl⟩
  | store v n c hi hc hroom => exact .inl ⟨rfl, rfl, rfl, rfl, rfl⟩
  | opened P total hi hc hroom => exact .inr (.inl hi)
  | moved t c r k hi hact hd => exact .inr (.inr ⟨hi, by simp, by simp⟩)

/-- A step leaves the stream cursor registers, or makes one of the moves that R27 and R41 name. -/
theorem StepEffect.stream_cases {s t : State} (h : StepEffect s t) :
    s.StreamKept t ∨ s.script.head? = some .reset ∨
    ∃ i, s.script.head? = some (.issue (encode i)) ∧
      (i = .nbnew ∨ (isNext i = true ∧ t.nbBase = s.nbBase ∧ t.nbEnd = s.nbEnd)) := by
  cases h with
  | kept hf hk hm => exact .inl hk
  | hostWrite a b => exact .inl ⟨rfl, rfl, rfl, rfl, rfl⟩
  | reset hmv => exact .inr (.inl hmv)
  | fault cmd c hmv hs => exact .inl ⟨rfl, rfl, rfl, rfl, rfl⟩
  | completed i hmv hs hu =>
    obtain hk | hi := hu.stream_cases
    · exact .inl ⟨hk.nbCtl, hk.nbBase, hk.nbPair, hk.nbVal, hk.nbEnd⟩
    · exact .inr (.inr ⟨i, hmv, hi⟩)

/-- Settles O20, by the two lemmas on the writers of the stream cursor registers. -/
theorem streamCursorRegistersHaveTheirWriters : Obligations.StreamCursorRegistersHaveTheirWriters := by
  intro s t h
  obtain hk | hreset | ⟨i, hmv, rfl | ⟨hi, hbase, hend⟩⟩ := (step_effect h).stream_cases
  · exact ⟨fun hne => absurd ⟨hk.nbCtl, hk.nbPair, hk.nbVal⟩ hne, fun hne => absurd ⟨hk.nbBase, hk.nbEnd⟩ hne⟩
  · exact ⟨fun _ => .inl hreset, fun _ => .inl hreset⟩
  · exact ⟨fun _ => .inr ⟨_, hmv, .inl rfl⟩, fun _ => .inr hmv⟩
  · exact ⟨fun _ => .inr ⟨i, hmv, .inr hi⟩, fun hne => absurd ⟨hbase, hend⟩ hne⟩

/-! ### Writes to memory -/

theorem BodyEffect.read_ne {i : Instr} {s u : State} {a : Nat} (h : BodyEffect i s u)
    (hne : u.mem.read a ≠ s.mem.read a) :
    family i = .encoder ∧ s.cursorAddr ≤ a ∧ a < s.cbase.toNat + u.cpos.toNat ∧ u.cpos.toNat ≤ s.clen.toNat := by
  cases h with
  | operands v c p d => exact absurd rfl hne
  | store v n c hi hc hroom =>
    have hpos : (BitVec.ofNat 64 (s.cpos.toNat + n)).toNat = s.cpos.toNat + n := by
      have hlen := s.clen.isLt
      rw [BitVec.toNat_ofNat, Nat.mod_eq_of_lt (by omega)]
    have hin : s.cursorAddr ≤ a ∧ a < s.cursorAddr + n := by
      by_contra hout
      exact hne (by simp [Memory.read_writeLE, hout])
    simp only [State.setCode_cpos, State.advance_cpos, State.setMem_cpos, hpos]
    unfold State.cursorAddr at hin ⊢
    exact ⟨hi, hin.1, by omega, hroom⟩
  | opened P total hi hc hroom => exact absurd rfl hne
  | moved t c r k hi hact hd => exact absurd (by simp) hne

/-- Settles O22: a halted CORE and a fault leave memory, and of the bodies only that of an encode command writes it. -/
theorem writesStayInTheWindow : Obligations.WritesStayInTheWindow := by
  intro i s t a h hne
  obtain ⟨-, rfl⟩ | ⟨-, u, hb, rfl⟩ | ⟨-, c, -, rfl⟩ := exec_next h
  · exact absurd rfl hne
  · exact (bodyOf_effect hb).read_ne hne
  · exact absurd rfl hne

/-! ### The operand registers (10_state.md R22): every update of one is a write of `x[i]` -/

section OperandRegisters
variable (s : State) {r : Fin 7} (v w : Word)

theorem State.setX_val (h : r ≠ 0) : (s.setX r v).val = s.val := s.getX_setX_other r 0 v h.symm
theorem State.setX_code (h : r ≠ 1) : (s.setX r v).code = s.code := s.getX_setX_other r 1 v h.symm
theorem State.setX_cbase (h : r ≠ 2) : (s.setX r v).cbase = s.cbase := s.getX_setX_other r 2 v h.symm
theorem State.setX_clen (h : r ≠ 3) : (s.setX r v).clen = s.clen := s.getX_setX_other r 3 v h.symm
theorem State.setX_cpos (h : r ≠ 4) : (s.setX r v).cpos = s.cpos := s.getX_setX_other r 4 v h.symm
theorem State.setX_cnt (h : r ≠ 5) : (s.setX r v).cnt = s.cnt := s.getX_setX_other r 5 v h.symm
theorem State.setX_aux (h : r ≠ 6) : (s.setX r v).aux = s.aux := s.getX_setX_other r 6 v h.symm

theorem State.advance_eq_setX (k : Nat) : s.advance k = s.setX 4 (BitVec.ofNat 64 (s.cpos.toNat + k)) := rfl

theorem State.setX_setX (i : Fin 7) : (s.setX i v).setX i w = s.setX i w := by fin_cases i <;> rfl

theorem State.setX_comm {i j : Fin 7} (h : i ≠ j) : (s.setX i v).setX j w = (s.setX j w).setX i v := by
  fin_cases i <;> fin_cases j <;> first | rfl | exact absurd rfl h

theorem State.setX_setMem (i : Fin 7) (m : Memory) : (s.setX i v).setMem m = (s.setMem m).setX i v := by
  fin_cases i <;> rfl

theorem State.setX_drawn (i : Fin 7) (n : Nat) : (s.setX i v).drawn n = (s.drawn n).setX i v := by
  fin_cases i <;> rfl

theorem State.setX_answer (i : Fin 7) (a : Reply) : (s.setX i v).answer a = (s.answer a).setX i v := by
  fin_cases i <;> rfl

theorem State.setX_takeFault (i : Fin 7) (c : Cause) (cmd : Byte) :
    (s.setX i v).takeFault c cmd = (s.takeFault c cmd).setX i v := by fin_cases i <;> rfl

theorem State.setX_stepCursor (i : Fin 7) (k : Nat) : (s.setX i v).stepCursor k = (s.stepCursor k).setX i v := by
  fin_cases i <;> rfl

/-- Opening a stream cursor reads CBASE and CPOS and no other operand register (44_stream_cursor.md R183). -/
theorem State.setX_openCursor {i : Fin 7} (h2 : i ≠ 2) (h4 : i ≠ 4) (P total : Nat) :
    (s.setX i v).openCursor P total = (s.openCursor P total).setX i v := by
  fin_cases i <;> first | rfl | exact absurd rfl h2 | exact absurd rfl h4

@[simp] theorem State.getX_setMem (i : Fin 7) (m : Memory) : (s.setMem m).getX i = s.getX i := by fin_cases i <;> rfl
@[simp] theorem State.getX_drawn (i : Fin 7) (n : Nat) : (s.drawn n).getX i = s.getX i := by fin_cases i <;> rfl
@[simp] theorem State.getX_answer (i : Fin 7) (a : Reply) : (s.answer a).getX i = s.getX i := by fin_cases i <;> rfl
@[simp] theorem State.getX_takeFault (i : Fin 7) (c : Cause) (cmd : Byte) :
    (s.takeFault c cmd).getX i = s.getX i := by fin_cases i <;> rfl
@[simp] theorem State.getX_stepCursor (i : Fin 7) (k : Nat) : (s.stepCursor k).getX i = s.getX i := by
  fin_cases i <;> rfl
@[simp] theorem State.getX_openCursor (i : Fin 7) (P total : Nat) : (s.openCursor P total).getX i = s.getX i := by
  fin_cases i <;> rfl

theorem State.getX_setVal (h : r ≠ 0) : (s.setVal v).getX r = s.getX r := s.getX_setX_other 0 r v h

theorem State.getX_setCode (h : r ≠ 1) : (s.setCode v).getX r = s.getX r := s.getX_setX_other 1 r v h

theorem State.getX_advance (h : r ≠ 4) (k : Nat) : (s.advance k).getX r = s.getX r := s.getX_setX_other 4 r _ h

theorem State.getX_setResult (h : r ≠ 0) (x : Option Word) : (s.setResult x).getX r = s.getX r := by
  cases x with
  | some w => exact s.getX_setVal w h
  | none => exact ((s.setVal _).getX_drawn r 1).trans (s.getX_setVal _ h)

end OperandRegisters

/-! ### A run with another value in one operand register -/

/-- `t` as it would be had register `r` held `v` all along: no trace of `v` where `r` is one of the registers `ws` that
were written on the way. -/
def State.leaving (ws : List (Fin 7)) (r : Fin 7) (v : Word) (t : State) : State := if r ∈ ws then t else t.setX r v

section Leaving
variable (ws : List (Fin 7)) (r : Fin 7) (v : Word) (s : State)

theorem State.leaving_mem {ws : List (Fin 7)} {r : Fin 7} (h : r ∈ ws) : s.leaving ws r v = s := if_pos h

theorem State.leaving_not_mem {ws : List (Fin 7)} {r : Fin 7} (h : r ∉ ws) : s.leaving ws r v = s.setX r v := if_neg h

theorem State.leaving_nil : s.leaving [] r v = s.setX r v := rfl

/-- A write to `x[i]` adds `i` to the registers in which no trace of `v` is left. -/
theorem State.leaving_setX (i : Fin 7) (w : Word) :
    (s.leaving ws r v).setX i w = (s.setX i w).leaving (i :: ws) r v := by
  by_cases hw : r ∈ ws
  · rw [leaving_mem v s hw, leaving_mem v _ (List.mem_cons_of_mem i hw)]
  · rw [leaving_not_mem v s hw]
    by_cases hi : r = i
    · subst hi
      rw [leaving_mem v _ List.mem_cons_self, setX_setX]
    · rw [leaving_not_mem v _ (by simp [hi, hw]), setX_comm s v w hi]

/-- An update that reads and writes no operand register leaves the trace of `v` as it is. -/
theorem State.leaving_comm {f : State → State} (hf : ∀ t : State, f (t.setX r v) = (f t).setX r v) :
    f (s.leaving ws r v) = (f s).leaving ws r v := by
  by_cases hw : r ∈ ws
  · rw [leaving_mem v s hw, leaving_mem v _ hw]
  · rw [leaving_not_mem v s hw, leaving_not_mem v _ hw, hf]

theorem State.leaving_swap (i j : Fin 7) : s.leaving (i :: j :: ws) r v = s.leaving (j :: i :: ws) r v := by
  simp only [State.leaving, List.mem_cons, or_left_comm]

theorem State.leaving_advance {r : Fin 7} (h : r ≠ 4) (k : Nat) :
    (s.leaving ws r v).advance k = (s.advance k).leaving (4 :: ws) r v := by
  have hcpos : (s.leaving ws r v).cpos = s.cpos := by
    unfold State.leaving
    split
    · rfl
    · exact s.setX_cpos v h
  rw [advance_eq_setX, hcpos, leaving_setX, ← advance_eq_setX]

theorem State.leaving_setResult (x : Option Word) :
    (s.leaving ws r v).setResult x = (s.setResult x).leaving (0 :: ws) r v := by
  have hdraws : (s.leaving ws r v).draws = s.draws := by
    unfold State.leaving
    split <;> simp
  cases x with
  | some w => exact s.leaving_setX ws r v 0 w
  | none =>
    change ((s.leaving ws r v).setX 0 (Config.anyWord (s.leaving ws r v).draws)).drawn 1 = _
    rw [hdraws, leaving_setX]
    exact leaving_comm _ r v _ (f := (State.drawn · 1)) fun t => t.setX_drawn v r 1

end Leaving

/-- Where two bodies begin with the same part and the rest of one is the rest of the other mapped by `w`, so is the
whole: an abort of the part is the same in both. -/
theorem bind_eq_map {α : Type} {x : Except Abort α} {f g : α → Except Abort State} {w : State → State}
    (h : ∀ a, f a = (g a).map w) : (x >>= f) = (x >>= g).map w := by
  cases x with
  | ok a => exact h a
  | error e => rfl

/-- A body keeps to its row of 10_state.md R23: a register outside `writes` is as it was, and one outside `reads` has
no effect, whatever value is put into it. -/
structure FollowsTable (reads writes : List (Fin 7)) (body : State → Except Abort State) : Prop where
  kept : ∀ {r : Fin 7} {s u : State}, r ∉ writes → body s = .ok u → u.getX r = s.getX r
  unread : ∀ {r : Fin 7} (v : Word) (s : State), r ∉ reads →
    body (s.setX r v) = (body s).map (State.leaving writes r v)

theorem makePair_followsTable : FollowsTable [1, 6] [0] makePair where
  kept hr h := by
    cases h
    exact State.getX_setVal _ _ (by simpa using hr)
  unread {r} v s hr := by
    obtain ⟨h1, h6⟩ : r ≠ 1 ∧ r ≠ 6 := by simpa using hr
    unfold makePair
    rw [s.setX_code v h1, s.setX_aux v h6]
    exact congrArg Except.ok (s.leaving_setX [] r v 0 _)

theorem firstOfPair_followsTable : FollowsTable [0] [1] firstOfPair where
  kept hr h := by
    cases h
    exact State.getX_setCode _ _ (by simpa using hr)
  unread {r} v s hr := by
    unfold firstOfPair
    rw [s.setX_val v (by simpa using hr)]
    exact congrArg Except.ok (s.leaving_setX [] r v 1 _)

theorem secondOfPair_followsTable : FollowsTable [0] [1] secondOfPair where
  kept hr h := by
    cases h
    exact State.getX_setCode _ _ (by simpa using hr)
  unread {r} v s hr := by
    unfold secondOfPair
    rw [s.setX_val v (by simpa using hr)]
    exact congrArg Except.ok (s.leaving_setX [] r v 1 _)

theorem encoder_followsTable {i : Instr} (hi : family i = .encoder) : FollowsTable [0, 2, 3, 4] [1, 4] (bodyOf i) where
  kept {r s u} hr h := by
    obtain ⟨h1, h4⟩ : r ≠ 1 ∧ r ≠ 4 := by simpa using hr
    rw [bodyOf_encoder hi, encodeAs_eq] at h
    split_ifs at h
    cases h
    rw [State.getX_setCode _ _ h1, State.getX_advance _ h4, State.getX_setMem]
  unread {r} v s hr := by
    obtain ⟨h0, h2, h3, h4⟩ : r ≠ 0 ∧ r ≠ 2 ∧ r ≠ 3 ∧ r ≠ 4 := by simpa using hr
    rw [bodyOf_encoder hi, bodyOf_encoder hi, s.setX_val v h0, encodeAs_eq, encodeAs_eq]
    simp only [State.CursorWellFormed, State.cursorAddr, s.setX_cbase v h2, s.setX_clen v h3, s.setX_cpos v h4,
      State.setX_mem]
    split_ifs
    · refine congrArg Except.ok ?_
      rw [State.setX_setMem, ← State.leaving_nil, State.leaving_advance _ _ _ h4]
      exact State.leaving_setX [4] r v _ 1 _
    · rfl
    · rfl

theorem scanArray_setX {r : Fin 7} (v : Word) (s : State) (hr : r ∉ [2, 3, 4, 5]) :
    scanArray (s.setX r v) = scanArray s := by
  obtain ⟨h2, h3, h4, h5⟩ : r ≠ 2 ∧ r ≠ 3 ∧ r ≠ 4 ∧ r ≠ 5 := by simpa using hr
  rw [scanArray_eq, scanArray_eq]
  simp only [State.CursorWellFormed, State.cursorAddr, s.setX_cbase v h2, s.setX_clen v h3, s.setX_cpos v h4,
    s.setX_cnt v h5, State.setX_mem]

theorem scanSize_followsTable : FollowsTable [2, 3, 4, 5] [0] scanSize where
  kept hr h := by
    obtain ⟨total, -, hu⟩ := bind_eq_ok h
    cases hu
    exact State.getX_setVal _ _ (by simpa using hr)
  unread {r} v s hr := by
    unfold scanSize
    rw [scanArray_setX v s hr]
    exact bind_eq_map fun total => congrArg Except.ok (s.leaving_setX [] r v 0 _)

theorem unpack_followsTable (t : TypeTag) : FollowsTable [1, 2, 3, 4] [0, 4] (unpack t) where
  kept {r s u} hr h := by
    obtain ⟨h0, h4⟩ : r ≠ 0 ∧ r ≠ 4 := by simpa using hr
    obtain ⟨-, -, h⟩ := bind_eq_ok h
    obtain ⟨⟨x, k⟩, -, hu⟩ := bind_eq_ok h
    cases hu
    rw [State.getX_advance _ h4, State.getX_setResult _ h0]
  unread {r} v s hr := by
    obtain ⟨h1, h2, h3, h4⟩ : r ≠ 1 ∧ r ≠ 2 ∧ r ≠ 3 ∧ r ≠ 4 := by simpa using hr
    unfold unpack State.checkCursor State.cursorOk
    rw [s.setX_code v h1, s.setX_cbase v h2, s.setX_clen v h3, s.setX_cpos v h4, State.setX_mem]
    refine bind_eq_map fun _ => bind_eq_map fun a => congrArg Except.ok ?_
    rw [← State.leaving_nil, State.leaving_setResult, State.leaving_advance _ _ _ h4, State.leaving_swap]

theorem construct_followsTable : FollowsTable [2, 3, 4, 5] [] construct where
  kept hr h := by
    obtain ⟨total, -, h⟩ := bind_eq_ok h
    obtain ⟨-, -, hu⟩ := bind_eq_ok h
    cases hu
    exact State.getX_openCursor ..
  unread {r} v s hr := by
    obtain ⟨h2, h3, h4, h5⟩ : r ≠ 2 ∧ r ≠ 3 ∧ r ≠ 4 ∧ r ≠ 5 := by simpa using hr
    unfold construct State.checkRoom
    rw [scanArray_setX v s hr, s.setX_clen v h3, s.setX_cpos v h4, s.setX_cnt v h5]
    exact bind_eq_map fun total => bind_eq_map fun _ => congrArg Except.ok (s.setX_openCursor v h2 h4 _ _)

theorem getNext_followsTable (t : TypeTag) : FollowsTable [] [0] (getNext t) where
  kept {r s u} hr h := by
    obtain ⟨-, -, h⟩ := bind_eq_ok h
    obtain ⟨-, -, h⟩ := bind_eq_ok h
    obtain ⟨c, -, h⟩ := bind_eq_ok h
    obtain ⟨⟨x, k⟩, -, hu⟩ := bind_eq_ok h
    cases hu
    rw [State.getX_stepCursor, State.getX_setResult _ (by simpa using hr)]
  unread {r} v s _ := by
    unfold getNext curCode State.nbAct State.nbHalf
    simp only [State.setX_nbCtl, State.setX_nbBase, State.setX_nbPair, State.setX_nbVal, State.setX_nbEnd,
      State.setX_mem]
    refine bind_eq_map fun _ => bind_eq_map fun _ => bind_eq_map fun c => bind_eq_map fun a => congrArg Except.ok ?_
    rw [← State.leaving_nil, State.leaving_setResult]
    exact State.leaving_comm [0] r v _ (f := (State.stepCursor · a.2)) fun t => t.setX_stepCursor v r a.2

theorem endOfArguments_followsTable : FollowsTable [] [0] endOfArguments where
  kept hr h := by
    obtain ⟨-, -, hu⟩ := bind_eq_ok h
    cases hu
    exact State.getX_setVal _ _ (by simpa using hr)
  unread {r} v s _ := by
    unfold endOfArguments State.nbAct
    rw [State.setX_nbCtl, State.setX_nbEnd]
    exact bind_eq_map fun _ => congrArg Except.ok (s.leaving_setX [] r v 0 _)

theorem bodyOf_followsTable : ∀ i : Instr, FollowsTable (readsX i) (writesX i) (bodyOf i)
  | .npmk => makePair_followsTable
  | .npfst => firstOfPair_followsTable
  | .npsnd => secondOfPair_followsTable
  | .pkuU8 | .pkuU16 | .pkuU32 | .pkuU64 | .pksI32 | .pksI64 | .pkfF32 | .pkfF64 | .pkp => encoder_followsTable rfl
  | .scan => scanSize_followsTable
  | .upiU8 | .upiU16 | .upiU32 | .upiU64 | .upiI8 | .upiI16 | .upiI32 | .upiI64 | .upfF32 | .upfF64 | .upp =>
    unpack_followsTable _
  | .nbnew => construct_followsTable
  | .nbnxtU8 | .nbnxtU16 | .nbnxtU32 | .nbnxtU64 | .nbnxtI8 | .nbnxtI16 | .nbnxtI32 | .nbnxtI64 | .nbnxtF32
  | .nbnxtF64 | .nbnxtPtr => getNext_followsTable _
  | .nbend => endOfArguments_followsTable

/-! ### A command with another value in one operand register -/

@[simp] theorem State.setX_halted (s : State) (i : Fin 7) (v : Word) : (s.setX i v).halted = s.halted := by
  rw [State.halted, State.setX_fstat, State.halted]

theorem exec_halted {i : Instr} {s : State} (hs : s.halted = true) :
    exec i s = .next (s.answer (.status statusHalted)) := by rw [exec_eq, command_halted hs]

/-- A command that does not answer OK writes no operand register (10_state.md R23). -/
theorem exec_getX_of_not_ok {i : Instr} {s t : State} (h : exec i s = .next t) (ht : t.reply ≠ .status 0)
    (r : Fin 7) : t.getX r = s.getX r := by
  obtain ⟨-, rfl⟩ | ⟨-, u, -, rfl⟩ | ⟨-, c, -, rfl⟩ := exec_next h
  · exact State.getX_answer ..
  · exact absurd rfl ht
  · exact State.getX_takeFault ..

/-- A command with `v` in a register it does not read does the same, and leaves `v` there unless it has written the
register, which it does only where it answers OK. -/
theorem exec_setX {i : Instr} {r : Fin 7} (hr : r ∉ readsX i) (v : Word) {s t : State} (h : exec i s = .next t) :
    exec i (s.setX r v) = .next (if t.reply = .status 0 then t.leaving (writesX i) r v else t.setX r v) := by
  have hbody := (bodyOf_followsTable i).unread v s hr
  obtain ⟨hs, rfl⟩ | ⟨hs, u, hb, rfl⟩ | ⟨hs, c, hb, rfl⟩ := exec_next h
  · rw [exec_halted (by simpa using hs), if_neg (by simp [statusHalted]), State.setX_answer]
  · rw [hb] at hbody
    have hok : (u.answer (.status statusOk)).reply = .status 0 := rfl
    rw [exec_ok (by simpa using hs) hbody, if_pos hok]
    exact congrArg _ (State.leaving_comm _ r v u (f := (State.answer · _)) fun t => t.setX_answer v r _)
  · rw [hb] at hbody
    rw [exec_raise (by simpa using hs) hbody, if_neg (by simpa using causeCode_ne_zero c), State.setX_takeFault]

/-- Settles O21: every body follows its row of R23, and a halted CORE and a fault write no operand register. -/
theorem registersFollowTheTable : Obligations.RegistersFollowTheTable := by
  intro i r v s t h
  have hkept : r ∉ writesX i → t.getX r = s.getX r := by
    intro hw
    obtain ⟨-, rfl⟩ | ⟨-, u, hb, rfl⟩ | ⟨-, c, -, rfl⟩ := exec_next h
    · exact State.getX_answer ..
    · rw [State.getX_answer, (bodyOf_followsTable i).kept hw hb]
    · exact State.getX_takeFault ..
  refine ⟨hkept, fun hr hw => ?_, fun hr hw ht => ?_, fun ht => exec_getX_of_not_ok h ht r⟩
  · rw [exec_setX hr v h, State.leaving_not_mem v t hw, ite_self]
  · rw [exec_setX hr v h, if_pos ht, State.leaving_mem v t hw]

/-! ### The moves of the host (10_state.md R20, R21) and the reset state (R41) -/

/-- Settles O3: the move is taken off the script and the byte dispatched by what it decodes to. -/
theorem stepRunsTheDecodedCommand : Obligations.StepRunsTheDecodedCommand := by
  intro s cmd rest i hscript hd _
  rw [step_cons hscript]
  simp only [hostMove, hostIssue, hd]

/-- Settles O6: an empty script is an idle CORE. -/
theorem idleStepChangesNothing : Obligations.IdleStepChangesNothing := fun _ => step_nil

/-- A register write changes the operand registers and no other field. -/
theorem State.setX_frame (s : State) (i : Fin 7) (v : Word) :
    s.setX i v = { s with
      val := (s.setX i v).val, code := (s.setX i v).code, cbase := (s.setX i v).cbase, clen := (s.setX i v).clen
      cpos := (s.setX i v).cpos, cnt := (s.setX i v).cnt, aux := (s.setX i v).aux } := by
  fin_cases i <;> rfl

/-- Settles O7: the two moves are `setX` and `getX`. -/
theorem hostRegisterMoves : Obligations.HostRegisterMoves := by
  intro s rest i
  refine ⟨fun v hscript => ⟨hostRegWrite i v { s with script := rest }, step_cons hscript, ?_, fun j hj => ?_, ?_⟩,
    fun hscript => ?_⟩
  · rw [hostRegWrite, State.getX_answer, State.getX_setX_same]
  · rw [hostRegWrite, State.getX_answer, State.getX_setX_other _ _ _ _ hj]
    rfl
  · exact congrArg (State.answer · .none) (State.setX_frame { s with script := rest } i v)
  · rw [step_cons hscript]
    rfl

/-- While a stream cursor is active every status register answers as stored. -/
theorem hostCsrRead_active {s : State} (h : s.nbAct = true) (j : Nat) :
    hostCsrRead j s = s.answer (.word (s.csr j)) := by simp [hostCsrRead, h]

/-- FSTAT, NB_CTL and the numbers above 5 answer as stored in every state. -/
theorem hostCsrRead_always {j : Nat} (h : j < 2 ∨ 5 < j) (s : State) :
    hostCsrRead j s = s.answer (.word (s.csr j)) := by
  have hout : ¬ (2 ≤ j ∧ j ≤ 5) := by omega
  simp [hostCsrRead, and_assoc, hout]

/-- Without a stream cursor NB_BASE to NB_END answer a free value, drawn at the read. -/
theorem hostCsrRead_inactive {s : State} (h : s.nbAct = false) {j : Nat} (h2 : 2 ≤ j) (h5 : j ≤ 5) :
    hostCsrRead j s = (s.drawn 1).answer (.word (Config.anyWord s.draws)) := by simp [hostCsrRead, h, h2, h5]

theorem State.csr_above_five {j : Nat} (h : 5 < j) (s : State) : s.csr j = 0 := by
  obtain ⟨k, rfl⟩ := Nat.exists_eq_add_of_lt h
  rw [show 5 + k + 1 = k + 6 by omega]
  rfl

/-- Settles O8, by the three lemmas on what a read of a status register answers. -/
theorem csrReadAnswers : Obligations.CsrReadAnswers := by
  intro s rest j hscript
  have hstep : step s = .next (hostCsrRead j { s with script := rest }) := step_cons hscript
  have hactive (hact : s.nbAct = true) : step s = .next { s with script := rest, reply := .word (s.csr j) } :=
    hstep.trans (congrArg Host.Outcome.next (hostCsrRead_active (s := { s with script := rest }) hact j))
  have halways (hj : j < 2 ∨ 5 < j) : step s = .next { s with script := rest, reply := .word (s.csr j) } :=
    hstep.trans (congrArg Host.Outcome.next (hostCsrRead_always hj _))
  refine ⟨?_, ?_, fun hact => ?_, fun hact h2 h5 => ⟨Config.anyWord s.draws, ?_⟩, fun hj => ?_⟩
  · rintro rfl
    exact halways (.inl (by decide))
  · rintro rfl
    exact halways (.inl (by decide))
  · refine ⟨?_, ?_, ?_, ?_⟩ <;> rintro rfl <;> exact hactive hact
  · exact hstep.trans (congrArg Host.Outcome.next (hostCsrRead_inactive (s := { s with script := rest }) hact h2 h5))
  · rw [halways (.inr hj), State.csr_above_five hj]

/-- Settles O9: the law of memory for one written byte. -/
theorem hostMemoryMoves : Obligations.HostMemoryMoves := by
  intro s rest a
  refine ⟨fun b hscript => ⟨s.mem.write a.toNat b, step_cons hscript, ?_, fun a' ha => ?_⟩, step_cons⟩
  · rw [Memory.read_write, if_pos rfl]
  · rw [Memory.read_write, if_neg ha]

/-- Settles O11: every field named is 0 in the reset state. -/
theorem resetStateIsAsStated : Obligations.ResetStateIsAsStated :=
  ⟨rfl, rfl, by decide, by decide, by decide, by decide, by decide, by decide⟩

end Sys2Proof.Machine

/-! ## Memory: what a command does depends on its window alone (20_memory.md R58)

Two runs of one command are compared, from `s` and from `s` with another memory `m` that agrees with the first on the
bytes in reach. A body that writes no memory commutes with the exchange; an encode command makes the same writes to
both memories. -/

namespace Sys2Proof.Machine

/-! ### Memories that agree on a range of addresses -/

/-- The two memories hold the same bytes from `lo` up to `hi`. -/
def Memory.AgreeOn (m m' : Memory) (lo hi : Nat) : Prop := ∀ a, lo ≤ a → a < hi → m'.read a = m.read a

section Agreement
variable {m m' : Memory}

theorem Memory.AgreeOn.mono {lo hi lo' hi' : Nat} (h : m.AgreeOn m' lo hi) (hlo : lo ≤ lo') (hhi : hi' ≤ hi) :
    m.AgreeOn m' lo' hi' := fun a h1 h2 => h a (hlo.trans h1) (h2.trans_le hhi)

/-- The code of value `i` is in byte `i div 2` of the array (30_encoding.md R73). -/
theorem nib_congr {A i : Nat} (h : m'.read (A + i / 2) = m.read (A + i / 2)) : nib m' A i = nib m A i := by
  rw [nib, nib, h]

/-- A scan of `N` codes reads the `ceil_half(N)` bytes of their array alone (42_size_scanner.md R140). -/
theorem scanTotal_congr {A N : Nat} (h : m.AgreeOn m' A (A + ceilHalf N)) :
    scanTotal m' A N = scanTotal m A N := by
  induction N with
  | zero => rfl
  | succ n ih =>
    unfold ceilHalf at h ih
    have hlast : nib m' A n = nib m A n := nib_congr (h _ (by omega) (by omega))
    rw [scanTotal, scanTotal, hlast, ih (h.mono le_rfl (by omega))]

variable {B L p : Nat}

/-- An integer decode reads between its position and its limit alone (43_decoder.md R151). -/
theorem intDecode_congr (hB : B + L ≤ 2 ^ 64) (c : Nibble) (h : m.AgreeOn m' (B + p) (B + L)) :
    intDecode m' B L p c = intDecode m B L p c := by
  rw [intDecode_eq m' p c hB, intDecode_eq m p c hB]
  by_cases hroom : p + intWidth c.toNat ≤ L
  · rw [Memory.readLE_congr m m' _ _ (h.mono le_rfl (by omega))]
  · simp only [if_neg hroom]

/-- A float decode reads between its position and its limit alone: where it reads, the code is the width (43_decoder.md
R163). -/
theorem fltDecode_congr (hB : B + L ≤ 2 ^ 64) (c : Nibble) (W : Nat) (h : m.AgreeOn m' (B + p) (B + L)) :
    fltDecode m' B L p c W = fltDecode m B L p c W := by
  rw [fltDecode_eq m' p c W hB, fltDecode_eq m p c W hB]
  by_cases hroom : p + fltWidth c ≤ L
  · by_cases hmatch : (W = 4 ∧ c = 4) ∨ (W = 8 ∧ c = 8)
    · have hW : W = fltWidth c := by obtain ⟨rfl, rfl⟩ | ⟨rfl, rfl⟩ := hmatch <;> rfl
      rw [Memory.readLE_congr m m' _ _ (h.mono le_rfl (by omega))]
    · simp only [if_neg hmatch]
  · simp only [if_neg hroom]

theorem decodeAs_congr (t : TypeTag) (hB : B + L ≤ 2 ^ 64) (c : Nibble) (h : m.AgreeOn m' (B + p) (B + L)) :
    decodeAs t m' B L p c = decodeAs t m B L p c := by
  unfold decodeAs
  rw [intDecode_congr hB c h, fltDecode_congr hB c _ h]

end Agreement

/-! ### A body run with another memory -/

section OtherMemory
variable {s : State} {m : Memory}

/-- As `bind_eq_map`, where the rest needs what the common part has checked. -/
theorem bind_eq_map_of_ok {α : Type} {x : Except Abort α} {f g : α → Except Abort State} {w : State → State}
    (h : ∀ a, x = .ok a → f a = (g a).map w) : (x >>= f) = (x >>= g).map w := by
  cases x with
  | ok a => exact h a rfl
  | error e => rfl

theorem State.checkCursor_eq_ok {s : State} {u : Unit} (h : s.checkCursor = .ok u) : s.CursorWellFormed :=
  s.cursorOk_iff.mp (by simpa using raiseIf_eq_ok h)

theorem State.setMem_setResult (s : State) (m : Memory) (r : Option Word) :
    (s.setMem m).setResult r = (s.setResult r).setMem m := by cases r <;> rfl

theorem scanArray_setMem (h : s.mem.AgreeOn m s.cursorAddr (s.cbase.toNat + s.clen.toNat)) :
    scanArray (s.setMem m) = scanArray s := by
  rw [scanArray_eq, scanArray_eq]
  by_cases hroom : s.cpos.toNat + ceilHalf s.cnt.toNat ≤ s.clen.toNat
  · have hend : s.cursorAddr + ceilHalf s.cnt.toNat ≤ s.cbase.toNat + s.clen.toNat := by
      unfold State.cursorAddr
      omega
    have htotal : scanTotal (s.setMem m).mem (s.setMem m).cursorAddr (s.setMem m).cnt.toNat =
        scanTotal s.mem s.cursorAddr s.cnt.toNat := scanTotal_congr (h.mono le_rfl hend)
    rw [htotal]
    rfl
  · have hroom' : ¬ (s.setMem m).cpos.toNat + ceilHalf (s.setMem m).cnt.toNat ≤ (s.setMem m).clen.toNat := hroom
    rw [if_neg hroom, if_neg hroom']
    rfl

theorem scanSize_setMem (h : s.mem.AgreeOn m s.cursorAddr (s.cbase.toNat + s.clen.toNat)) :
    scanSize (s.setMem m) = (scanSize s).map (State.setMem · m) := by
  unfold scanSize
  rw [scanArray_setMem h]
  exact bind_eq_map fun _ => rfl

theorem construct_setMem (h : s.mem.AgreeOn m s.cursorAddr (s.cbase.toNat + s.clen.toNat)) :
    construct (s.setMem m) = (construct s).map (State.setMem · m) := by
  unfold construct
  rw [scanArray_setMem h]
  exact bind_eq_map fun _ => bind_eq_map fun _ => rfl

theorem unpack_setMem (t : TypeTag) (h : s.mem.AgreeOn m s.cursorAddr (s.cbase.toNat + s.clen.toNat)) :
    unpack t (s.setMem m) = (unpack t s).map (State.setMem · m) := by
  refine bind_eq_map_of_ok (x := s.checkCursor) fun _ hc => ?_
  obtain ⟨-, hbase⟩ := State.checkCursor_eq_ok hc
  simp only [State.setMem_mem, State.setMem_cbase, State.setMem_clen, State.setMem_cpos, State.setMem_code,
    State.setMem_setResult, decodeAs_congr t hbase _ h]
  exact bind_eq_map fun _ => rfl

/-- The current code is in the byte at NB_PAIR (44_stream_cursor.md R185). -/
theorem curCode_setMem (haddr : s.nbBase.toNat + s.nbPair.toNat + 1 ≤ 2 ^ 64)
    (h : m.read (s.nbBase.toNat + s.nbPair.toNat) = s.mem.read (s.nbBase.toNat + s.nbPair.toNat)) :
    curCode (s.setMem m) = curCode s := by
  have haddr' : (s.setMem m).nbBase.toNat + (s.setMem m).nbPair.toNat + 1 ≤ 2 ^ 64 := haddr
  rw [curCode_eq haddr', curCode_eq haddr]
  simp only [State.setMem_mem, State.setMem_nbBase, State.setMem_nbPair, h]
  rfl

/-- NBNXT reads the pair byte, which R34 keeps before the values, and then from NB_VAL to NB_END. -/
theorem getNext_setMem (t : TypeTag) (hs : s.StreamCursorOk)
    (h : s.mem.AgreeOn m s.nbBase.toNat (s.nbBase.toNat + s.nbEnd.toNat)) :
    getNext t (s.setMem m) = (getNext t s).map (State.setMem · m) := by
  refine bind_eq_map_of_ok (x := raiseIf (!s.nbAct) .nbInactive) fun _ hact => ?_
  refine bind_eq_map_of_ok (x := raiseIf (decide (s.nbVal.toNat ≥ s.nbEnd.toNat)) .endOfValues) fun _ hend => ?_
  obtain ⟨hpair, -, hbase⟩ := hs (by simpa using raiseIf_eq_ok hact)
  have hval : s.nbVal.toNat < s.nbEnd.toNat := by simpa using raiseIf_eq_ok hend
  have hpairByte := h (s.nbBase.toNat + s.nbPair.toNat) (by omega) (by omega)
  rw [curCode_setMem (by omega) hpairByte]
  refine bind_eq_map fun c => ?_
  simp only [State.setMem_mem, State.setMem_nbBase, State.setMem_nbEnd, State.setMem_nbVal, State.setMem_setResult,
    decodeAs_congr t hbase c (h.mono (Nat.le_add_right _ _) le_rfl)]
  exact bind_eq_map fun _ => rfl

theorem endOfArguments_setMem : endOfArguments (s.setMem m) = (endOfArguments s).map (State.setMem · m) :=
  bind_eq_map (x := raiseIf (!s.nbAct) .nbInactive) fun _ => rfl

theorem encodeStore_setMem (v n : Nat) :
    encodeStore (s.setMem m) v n = (encodeStore s v n).map (State.setMem · (m.writeLE s.cursorAddr n v)) :=
  bind_eq_map (x := s.checkCursor) fun _ => bind_eq_map (x := s.checkRoom n) fun _ =>
    bind_eq_map (x := reach s.cursorAddr n) fun _ => rfl

/-- An encode command makes the same writes to either memory, and reads none of it (41_encoder.md R110). -/
theorem encodeAs_setMem (v n c : Nat) :
    encodeAs (s.setMem m) v n c = (encodeAs s v n c).map (State.setMem · (m.writeLE s.cursorAddr n v)) := by
  unfold encodeAs
  rw [encodeStore_setMem]
  cases encodeStore s v n <;> rfl

end OtherMemory

/-! ### The reach of a command -/

section Reach
variable {i : Instr} {s : State} {m : Memory}

/-- The reach of a command other than NBNXT is the window from the cursor on. -/
theorem State.agreeOn_window (hi : isNext i = false) (h : ∀ a, s.InReach i a → m.read a = s.mem.read a) :
    s.mem.AgreeOn m s.cursorAddr (s.cbase.toNat + s.clen.toNat) := by
  intro a hlo hhi
  refine h a ?_
  rw [State.InReach, hi]
  exact ⟨hlo, hhi⟩

/-- The reach of NBNXT is the record of the stream cursor. -/
theorem State.agreeOn_record (hi : isNext i = true) (h : ∀ a, s.InReach i a → m.read a = s.mem.read a) :
    s.mem.AgreeOn m s.nbBase.toNat (s.nbBase.toNat + s.nbEnd.toNat) := by
  intro a hlo hhi
  refine h a ?_
  rw [State.InReach, hi]
  exact ⟨hlo, hhi⟩

/-- A body other than an encode command's commutes with an exchange of memory outside its reach. -/
theorem bodyOf_setMem (hi : family i ≠ .encoder) (hs : s.StreamCursorOk)
    (h : ∀ a, s.InReach i a → m.read a = s.mem.read a) :
    bodyOf i (s.setMem m) = (bodyOf i s).map (State.setMem · m) :=
  match i with
  | .npmk | .npfst | .npsnd => rfl
  | .pkuU8 | .pkuU16 | .pkuU32 | .pkuU64 | .pksI32 | .pksI64 | .pkfF32 | .pkfF64 | .pkp => absurd rfl hi
  | .scan => scanSize_setMem (State.agreeOn_window rfl h)
  | .upiU8 | .upiU16 | .upiU32 | .upiU64 | .upiI8 | .upiI16 | .upiI32 | .upiI64 | .upfF32 | .upfF64 | .upp =>
    unpack_setMem _ (State.agreeOn_window rfl h)
  | .nbnew => construct_setMem (State.agreeOn_window rfl h)
  | .nbnxtU8 | .nbnxtU16 | .nbnxtU32 | .nbnxtU64 | .nbnxtI8 | .nbnxtI16 | .nbnxtI32 | .nbnxtI64 | .nbnxtF32
  | .nbnxtF64 | .nbnxtPtr => getNext_setMem _ hs (State.agreeOn_record rfl h)
  | .nbend => endOfArguments_setMem

end Reach

/-! ### The memory that the second run leaves -/

/-- `m'` is `m` with the bytes that `new` changed of `old`. -/
def Memory.SameChange (old new m m' : Memory) : Prop :=
  ∀ a, m'.read a = if new.read a = old.read a then m.read a else new.read a

theorem Memory.SameChange.of_read_eq {old new : Memory} (h : ∀ a, new.read a = old.read a) (m : Memory) :
    Memory.SameChange old new m m := fun a => by rw [if_pos (h a)]

/-- One write made to two memories that agree where it is made. A byte that it leaves as it was is the same in both. -/
theorem Memory.sameChange_writeLE {old m : Memory} {A n : Nat} (v : Nat) (h : old.AgreeOn m A (A + n)) :
    Memory.SameChange old (old.writeLE A n v) m (m.writeLE A n v) := by
  intro a
  rw [Memory.read_writeLE, Memory.read_writeLE]
  by_cases hin : A ≤ a ∧ a < A + n
  · rw [if_pos hin, if_pos hin, h a hin.1 hin.2]
    split_ifs with hsame
    · exact hsame
    · rfl
  · rw [if_neg hin, if_neg hin, if_pos rfl]

/-- Every body, run with another memory outside its reach, ends the same way, and makes the same change to it. -/
theorem bodyOf_otherMemory {i : Instr} {s : State} {m : Memory} (hs : s.StreamCursorOk)
    (h : ∀ a, s.InReach i a → m.read a = s.mem.read a) :
    ∃ m', bodyOf i (s.setMem m) = (bodyOf i s).map (State.setMem · m') ∧
      ∀ u, bodyOf i s = .ok u → Memory.SameChange s.mem u.mem m m' := by
  by_cases hi : family i = .encoder
  · rw [bodyOf_encoder hi, bodyOf_encoder hi]
    refine ⟨_, encodeAs_setMem .., fun u hu => ?_⟩
    rw [encodeAs_eq] at hu
    split_ifs at hu with hc hroom
    cases hu
    have hnext : isNext i = false := by rw [isNext, hi]; rfl
    refine Memory.sameChange_writeLE _ ((State.agreeOn_window hnext h).mono le_rfl ?_)
    unfold State.cursorAddr
    omega
  · refine ⟨m, bodyOf_setMem hi hs h, fun u hu => .of_read_eq (fun a => ?_) m⟩
    by_contra hne
    exact hi ((bodyOf_effect hu).read_ne hne).1

/-- Settles O23: a halted CORE and a fault leave memory as it is, and a body makes the same change to either memory. -/
theorem readsStayInTheWindow : Obligations.ReadsStayInTheWindow := by
  intro i s t m hs h hreach
  obtain ⟨m', hbody, hchange⟩ := bodyOf_otherMemory hs hreach
  have hkept : Memory.SameChange s.mem s.mem m m := .of_read_eq (fun _ => rfl) m
  obtain ⟨hh, rfl⟩ | ⟨hh, u, hb, rfl⟩ | ⟨hh, c, hb, rfl⟩ := exec_next h
  · exact ⟨m, exec_halted (s := s.setMem m) hh, hkept⟩
  · rw [hb] at hbody
    exact ⟨m', exec_ok (s := s.setMem m) hh hbody, hchange u hb⟩
  · rw [hb] at hbody
    exact ⟨m, exec_raise (s := s.setMem m) hh hbody, hkept⟩

end Sys2Proof.Machine

/-! ## The command byte: the decoder and the encoder agree (30_encoding.md R80 to R84)

A byte decodes to a command exactly where it is that command's byte, and it decodes at all exactly where its fields pass
the three checks of R84: the decoder's row for an operation rejects the tags that R81 leaves out of its list. -/

namespace Sys2Proof.Machine

/-! ### Decoding undoes encoding -/

/-- The byte of a command decodes to it (30_encoding.md R83). -/
@[simp] theorem decode_encode (i : Instr) : decode (encode i) = .ok i := by cases i <;> rfl

/-- The decoder as the inverse of the table of R83. -/
theorem decode_eq_ok_iff {b : Byte} {i : Instr} : decode b = .ok i ↔ encode i = b :=
  ⟨encode_of_decode, fun h => h ▸ decode_encode i⟩

/-- Settles O1: the rows of the table are the pairs of a command's byte and the command. -/
theorem writtenBytesDecode : Obligations.WrittenBytesDecode := by
  refine ⟨fun row hrow => decode_eq_ok_iff.2 ?_, fun b i h => ?_⟩
  · revert row
    decide
  · rw [← encode_of_decode h]
    clear h
    cases i <;> decide

/-! ### The bytes that decode (R80, R81, R84) -/

/-- An operation that takes no type decodes under the tag 0 alone. -/
theorem decodeUntyped_decodes_iff {c : Cmd8} (i : Instr) (hop : c.opLegal = true) (ht : c.takesType = false) :
    (∃ j, decodeUntyped c i = .ok j) ↔ c.wellFormed = true := by
  have hwf : c.wellFormed = (c.ty == 0) := by
    simp only [Cmd8.wellFormed, Cmd8.untypedTagZero, Cmd8.typedTagListed, hop, ht, Bool.true_and, Bool.false_or,
      Bool.not_false, Bool.true_or, Bool.and_true]
  rw [hwf, beq_iff_eq, decodeUntyped]
  split_ifs with hty
  · exact iff_of_true ⟨i, rfl⟩ hty
  · exact iff_of_false (by simp) hty

/-- A typed operation decodes under the tags of its list where its row `sel` names a command for just these. -/
theorem decodeTyped_decodes_iff (op : Nibble) {ty : Nibble} (sel : TypeTag → Option Instr)
    (hop : (Cmd8.mk op ty).opLegal = true) (ht : (Cmd8.mk op ty).takesType = true)
    (hsel : ∀ tag, ((TypeTag.ofBits tag).bind sel).isSome = (Cmd8.tagsOf op).contains tag) :
    (∃ j, decodeTyped ⟨op, ty⟩ sel = .ok j) ↔ (Cmd8.mk op ty).wellFormed = true := by
  have hwf : (Cmd8.mk op ty).wellFormed = ((TypeTag.ofBits ty).bind sel).isSome := by
    simp only [Cmd8.wellFormed, Cmd8.untypedTagZero, Cmd8.typedTagListed, hop, ht, hsel, Bool.true_and, Bool.true_or,
      Bool.not_true, Bool.false_or]
  rw [hwf, decodeTyped]
  cases (TypeTag.ofBits ty).bind sel <;> simp

theorem illegalOp_decodes_iff {c : Cmd8} (e : DecodeError) (hop : c.opLegal = false) :
    (∃ j : Instr, Except.error e = .ok j) ↔ c.wellFormed = true := by
  simp [Cmd8.wellFormed, hop]

/-- The fields that decode are the legal ones, operation by operation as in the table of R81. -/
theorem decodeFields_decodes_iff (c : Cmd8) : (∃ i, decodeFields c = .ok i) ↔ c.wellFormed = true := by
  obtain ⟨⟨op, hlt⟩, ty⟩ := c
  interval_cases op
  · exact illegalOp_decodes_iff _ rfl
  · exact decodeUntyped_decodes_iff .npmk rfl rfl
  · exact decodeUntyped_decodes_iff .npfst rfl rfl
  · exact decodeUntyped_decodes_iff .npsnd rfl rfl
  · exact decodeTyped_decodes_iff 0x4 pkuOf rfl rfl (by decide)
  · exact decodeTyped_decodes_iff 0x5 pksOf rfl rfl (by decide)
  · exact decodeTyped_decodes_iff 0x6 pkfOf rfl rfl (by decide)
  · exact decodeTyped_decodes_iff 0x7 pkpOf rfl rfl (by decide)
  · exact decodeUntyped_decodes_iff .scan rfl rfl
  · exact decodeTyped_decodes_iff 0x9 upiOf rfl rfl (by decide)
  · exact decodeTyped_decodes_iff 0xA upfOf rfl rfl (by decide)
  · exact decodeTyped_decodes_iff 0xB uppOf rfl rfl (by decide)
  · exact decodeUntyped_decodes_iff .nbnew rfl rfl
  · exact decodeTyped_decodes_iff 0xD nbnxtOf rfl rfl (by decide)
  · exact decodeUntyped_decodes_iff .nbend rfl rfl
  · exact illegalOp_decodes_iff _ rfl

/-! ### Issuing a byte -/

/-- A byte is read back from its own number as a table row of 8 bits. -/
@[simp] theorem commandByte_toNat (b : Byte) : commandByte 8 b.toNat = b := by
  rw [commandByte, Nat.mod_eq_of_lt b.isLt, BitVec.ofNat_toNat, BitVec.setWidth_eq]

theorem State.withFetchWord_script (s : State) (b : Byte) :
    (s.withFetchWord 8 b.toNat).script = .issue b :: s.script := by
  rw [State.withFetchWord, commandByte_toNat, State.prepend]

/-- Settles O2: the decoder inverts the encoder, its rows are the lists of R81, and the byte placed is the one issued. -/
theorem decodeEncodeAgree : Obligations.DecodeEncodeAgree :=
  ⟨fun i _ => decode_encode i, fun _ _ => encode_of_decode, fun b => decodeFields_decodes_iff (Cmd8.ofByte b),
    fun i s => stepRunsTheDecodedCommand _ _ _ i (s.withFetchWord_script (encode i)) (decode_encode i) rfl⟩

/-- A byte that is no command's is rejected by the decoder. -/
theorem exists_decode_eq_error {cmd : Byte} (h : ∀ i, encode i ≠ cmd) : ∃ e, decode cmd = .error e := by
  cases hd : decode cmd with
  | ok i => exact absurd (encode_of_decode hd) (h i)
  | error e => exact ⟨e, rfl⟩

/-- Issue of a rejected byte on a CORE that is not halted is fault entry with ILLEGAL_CMD (60_exceptions.md R214). -/
theorem hostIssue_illegal {cmd : Byte} {s : State} (hs : s.halted = false) (h : ∀ i, encode i ≠ cmd) :
    hostIssue cmd s = .next (s.takeFault .illegalCmd cmd) := by
  obtain ⟨e, he⟩ := exists_decode_eq_error h
  simp only [hostIssue, he]
  exact command_raise hs rfl

/-- Settles O4: the step is fault entry, and FSTAT after it is the number that R28 gives for the cause and the byte. -/
theorem illegalByteTakesIllegalCmd : Obligations.IllegalByteTakesIllegalCmd := by
  intro s cmd rest hscript hs hcmd
  rw [step_cons hscript]
  have hissue := hostIssue_illegal (s := { s with script := rest }) hs hcmd
  rw [State.takeFault, fstatWord_eq] at hissue
  exact hissue

end Sys2Proof.Machine

/-! ## Nibble Pair Storage: NPMK, NPFST, NPSND (40_nibble_pair.md R100 to R103)

The fields of R24 and the pair byte of R100 as numbers, then the bodies over them. No body raises, so what a command that
is not halted does is its body's one write. -/

namespace Sys2Proof.Machine

/-! ### The nibbles of a pair byte as numbers (10_state.md R24, 40_nibble_pair.md R100) -/

theorem codeField_toNat (x : Word) : (codeField x).toNat = x.toNat % 16 := by
  rw [codeField, BitVec.extractLsb'_toNat, Nat.shiftRight_zero]

theorem pairField_toNat (x : Word) : (pairField x).toNat = x.toNat % 256 := by
  rw [pairField, BitVec.extractLsb'_toNat, Nat.shiftRight_zero]

theorem pairMake_toNat (f s : Nibble) : (pairMake f s).toNat = s.toNat * 16 + f.toNat := toNat_append_mul s f

theorem pairFirst_toNat (b : Byte) : (pairFirst b).toNat = b.toNat % 16 := by
  rw [pairFirst, BitVec.extractLsb'_toNat, Nat.shiftRight_zero]

theorem pairSecond_toNat (b : Byte) : (pairSecond b).toNat = b.toNat / 16 := by
  rw [pairSecond, BitVec.extractLsb'_toNat, Nat.shiftRight_eq_div_pow]
  omega

/-! ### What each body writes (R101, R102, R103) -/

theorem makePair_eq (s : State) :
    makePair s = .ok (s.setVal (BitVec.ofNat 64 (s.aux.toNat % 16 * 16 + s.code.toNat % 16))) := by
  rw [makePair, ← BitVec.ofNat_toNat, pairMake_toNat, codeField_toNat, codeField_toNat]

/-- `VAL[63:8]` does not count: the low nibble of `VAL[7:0]` is that of VAL. -/
theorem firstOfPair_eq (s : State) : firstOfPair s = .ok (s.setCode (BitVec.ofNat 64 (s.val.toNat % 16))) := by
  rw [firstOfPair, ← BitVec.ofNat_toNat, pairFirst_toNat, pairField_toNat, Nat.mod_mod_of_dvd _ (by decide : 16 ∣ 256)]

/-- `VAL[63:8]` does not count: the high nibble of `VAL[7:0]` is the second lowest of VAL. -/
theorem secondOfPair_eq (s : State) :
    secondOfPair s = .ok (s.setCode (BitVec.ofNat 64 (s.val.toNat / 16 % 16))) := by
  rw [secondOfPair, ← BitVec.ofNat_toNat, pairSecond_toNat, pairField_toNat, Nat.mod_mul_right_div_self _ 16 16]

/-! ### The commands -/

/-- Settles O24: the body of NPMK never raises, so only the halt test of the command's shape can answer otherwise. -/
theorem npmkMakesThePairByte : Obligations.NpmkMakesThePairByte :=
  ⟨rfl, fun s => ⟨fun hs => exec_ok (i := .npmk) hs (makePair_eq s), fun hs => exec_halted hs⟩⟩

/-- Settles O25: the bodies of NPFST and NPSND never raise, and each writes CODE alone. -/
theorem npfstNpsndTakeThePairApart : Obligations.NpfstNpsndTakeThePairApart :=
  ⟨rfl, rfl, fun s hs =>
    ⟨exec_ok (i := .npfst) hs (firstOfPair_eq s), exec_ok (i := .npsnd) hs (secondOfPair_eq s)⟩⟩

end Sys2Proof.Machine

/-! ## The Encoder: PKU, PKS, PKF, PKP (41_encoder.md R110 to R125)

What every encode command answers over the quantity, the byte count and the code it gives; then the three as numbers, for
each of PKU, PKS and PKF; the settled statements put the two together. -/

namespace Sys2Proof.Machine

/-! ### What an encode command answers (R110) -/

/-- Fault entry, in the words of the statements. -/
theorem State.takeFault_encode (s : State) (c : Cause) (i : Instr) : s.takeFault c (encode i) = s.afterFault c i := by
  unfold State.takeFault State.afterFault
  rw [fstatWord_eq]

/-- In the state `s` the command `i` stores the low `n` bytes of `u` under the code `c`: BAD_CURSOR, OVERRUN, or the bytes
at the cursor and nothing else changed but CODE and CPOS (R110). -/
def EncodesAs (i : Instr) (s : State) (u n c : Nat) : Prop :=
  (¬ s.CursorWellFormed → exec i s = .next (s.afterFault .badCursor i)) ∧
  (s.CursorWellFormed → s.clen.toNat < s.cpos.toNat + n → exec i s = .next (s.afterFault .overrun i)) ∧
  (s.CursorWellFormed → s.cpos.toNat + n ≤ s.clen.toNat →
    ∃ m, exec i s = .next { s with
        code := BitVec.ofNat 64 c, cpos := BitVec.ofNat 64 (s.cpos.toNat + n), mem := m, reply := .status 0 } ∧
      (∀ j, j < n → m.read (s.cursorAddr + j) = BitVec.ofNat 8 (u / 256 ^ j)) ∧
      ∀ a, a < s.cursorAddr ∨ s.cursorAddr + n ≤ a → m.read a = s.mem.read a)

theorem exec_encodesAs {i : Instr} {s : State} {u n c : Nat} (hi : family i = .encoder) (hs : s.halted = false)
    (hparts : encodeParts i s.val = (u, n, c)) : EncodesAs i s u n c := by
  have hbody : bodyOf i s = encodeAs s u n c := by rw [bodyOf_encoder hi, hparts]
  rw [encodeAs_eq] at hbody
  refine ⟨fun hc => ?_, fun hc hroom => ?_, fun hc hroom => ?_⟩
  · rw [if_pos hc] at hbody
    rw [exec_raise hs hbody, State.takeFault_encode]
  · rw [if_neg (not_not.mpr hc), if_neg (Nat.not_le.mpr hroom)] at hbody
    rw [exec_raise hs hbody, State.takeFault_encode]
  · rw [if_neg (not_not.mpr hc), if_pos hroom] at hbody
    refine ⟨s.mem.writeLE s.cursorAddr n u, exec_ok hs hbody, fun j hj => ?_, fun a ha => ?_⟩
    · rw [Memory.read_writeLE, if_pos (by omega), Nat.add_sub_cancel_left]
    · rw [Memory.read_writeLE, if_neg (by omega)]

/-- An encode command that answers OK had room for its bytes. -/
theorem EncodesAs.of_ok {i : Instr} {s t : State} {u n c : Nat} (h : EncodesAs i s u n c) (hexec : exec i s = .next t)
    (ht : t.reply = .status 0) :
    s.cpos.toNat + n ≤ s.clen.toNat ∧ t.code = BitVec.ofNat 64 c ∧ t.cpos = BitVec.ofNat 64 (s.cpos.toNat + n) := by
  obtain ⟨hbad, hover, hok⟩ := h
  have hfault (e : Cause) : exec i s ≠ .next (s.afterFault e i) := by
    intro he
    cases hexec.symm.trans he
    exact causeCode_ne_zero e (Reply.status.inj ht)
  by_cases hc : s.CursorWellFormed
  · by_cases hroom : s.cpos.toNat + n ≤ s.clen.toNat
    · obtain ⟨m, he, -⟩ := hok hc hroom
      cases hexec.symm.trans he
      exact ⟨hroom, rfl, rfl⟩
    · exact absurd (hover hc (Nat.not_le.mp hroom)) (hfault _)
  · exact absurd (hbad hc) (hfault _)

/-- Byte `j` below the cut is the same before and after it (00_scope.md R12). -/
theorem byte_mod_pow (x : Nat) {j n : Nat} (h : j < n) :
    BitVec.ofNat 8 (x % 256 ^ n / 256 ^ j) = BitVec.ofNat 8 (x / 256 ^ j) := by
  have hdvd : 256 ∣ 256 ^ (n - j) := dvd_pow_self _ (by omega)
  have hcut : x % 256 ^ n / 256 ^ j = x / 256 ^ j % 256 ^ (n - j) := by
    rw [← Nat.mod_mul_right_div_self, ← pow_add, Nat.add_sub_cancel' h.le]
  apply BitVec.eq_of_toNat_eq
  rw [hcut, BitVec.toNat_ofNat, BitVec.toNat_ofNat, Nat.mod_mod_of_dvd _ hdvd]

/-- Only the `n` low bytes of the quantity count. -/
theorem EncodesAs.of_mod {i : Instr} {s : State} {u n c : Nat} (h : EncodesAs i s (u % 256 ^ n) n c) :
    EncodesAs i s u n c := by
  obtain ⟨hbad, hover, hok⟩ := h
  refine ⟨hbad, hover, fun hc hroom => ?_⟩
  obtain ⟨m, hexec, hin, hout⟩ := hok hc hroom
  exact ⟨m, hexec, fun j hj => (hin j hj).trans (byte_mod_pow u hj), hout⟩

/-! ### The byte count of a bounded quantity (00_scope.md R15) -/

theorem lt_minBytes {v k : Nat} (hv : v < 2 ^ 64) (h : 256 ^ k ≤ v) : k < minBytes v :=
  (Nat.pow_lt_pow_iff_right (by decide)).mp (h.trans_lt (lt_pow_minBytes hv))

theorem pow_byte_le {W : Nat} (h : W ≤ 8) : 256 ^ W ≤ 2 ^ 64 := Nat.pow_le_pow_right (by decide : 256 > 0) h

/-! ### PKU and PKP (R111, R123) -/

theorem unsignedParts_eq (W : Nat) (v : Word) :
    unsignedParts W v = (v.toNat % 256 ^ W, minBytes (v.toNat % 256 ^ W), minBytes (v.toNat % 256 ^ W)) := by
  rw [unsignedParts, valueField_eq]

/-- Settles O26: the three properties of `n` make it `minBytes u`, which is at most `W` because `u` is below `256 ^ W`. -/
theorem packUnsignedStoresTheFewestBytes : Obligations.PackUnsignedStoresTheFewestBytes := by
  rintro ⟨i, W⟩ hrow s u n hs rfl hpos hfits hleast
  obtain ⟨hi, hW1, hW8, hparts⟩ :
      family i = .encoder ∧ 1 ≤ W ∧ W ≤ 8 ∧ encodeParts i s.val = unsignedParts W s.val := by
    fin_cases hrow <;> exact ⟨rfl, by decide, by decide, rfl⟩
  have hu : s.val.toNat % 256 ^ W < 256 ^ W := Nat.mod_lt _ (by positivity)
  have hn := minBytes_unique (hu.trans_le (pow_byte_le hW8)) hpos hfits hleast
  rw [unsignedParts_eq, hn] at hparts
  exact ⟨hleast W hW1 hu, exec_encodesAs hi hs hparts⟩

/-! ### PKS (R116, R117) -/

theorem storeRaw_iff {T : Nat} {v : Int} : storeRaw T v = true ↔ v ≥ 0 ∨ v ≤ -(2 ^ (T - 8)) := by
  simp [storeRaw]

theorem signedParts_raw {T : Nat} {x : Word} (h : (x.setWidth T).toInt ≥ 0 ∨ (x.setWidth T).toInt ≤ -(2 ^ (T - 8))) :
    signedParts T x = (x.toNat % 2 ^ T, minBytes (x.toNat % 2 ^ T), minBytes (x.toNat % 2 ^ T)) := by
  rw [signedParts, if_pos (storeRaw_iff.mpr h), BitVec.toNat_setWidth]

theorem signedParts_negated {T m : Nat} {x : Word} (h : (x.setWidth T).toInt < 0)
    (hT : -(2 ^ (T - 8)) < (x.setWidth T).toInt) (hm : (m : Int) = -(x.setWidth T).toInt) :
    signedParts T x = (m, minBytes m, 8 + minBytes m) := by
  have hraw : ¬ storeRaw T (x.setWidth T).toInt = true := by
    rw [storeRaw_iff]
    omega
  rw [signedParts, if_neg hraw, ← hm, Int.toNat_natCast]

/-- The pattern of a negative number has its top bit set. -/
theorem two_pow_le_of_toInt_neg {T : Nat} {x : Word} (h : (x.setWidth T).toInt < 0) : 2 ^ T ≤ 2 * (x.toNat % 2 ^ T) := by
  rw [BitVec.toInt_eq_toNat_cond, BitVec.toNat_setWidth] at h
  split_ifs at h with htop
  · omega
  · exact Nat.not_lt.mp htop

theorem two_pow_eight_mul (W : Nat) : 2 ^ (8 * W) = 256 ^ W := pow_mul 2 8 W

/-- A negative number under its own pattern takes the full `W` bytes (R116). -/
theorem minBytes_of_toInt_neg {W : Nat} {x : Word} (h1 : 1 ≤ W) (h8 : W ≤ 8) (h : (x.setWidth (8 * W)).toInt < 0) :
    minBytes (x.toNat % 2 ^ (8 * W)) = W := by
  have htop := two_pow_le_of_toInt_neg h
  have hlt : x.toNat % 2 ^ (8 * W) < 2 ^ (8 * W) := Nat.mod_lt _ (by positivity)
  rw [two_pow_eight_mul] at htop hlt ⊢
  have hstep : 256 ^ W = 256 * 256 ^ (W - 1) := by rw [← pow_succ', Nat.sub_add_cancel h1]
  have hlow : W - 1 < minBytes (x.toNat % 256 ^ W) := lt_minBytes (hlt.trans_le (pow_byte_le h8)) (by omega)
  have hhigh := minBytes_le h1 hlt
  omega

/-- A magnitude below the threshold of R116 fits in `W - 1` bytes. -/
theorem magnitude_lt {W m : Nat} (h : (m : Int) < 2 ^ (8 * W - 8)) : m < 256 ^ (W - 1) := by
  rw [← two_pow_eight_mul, Nat.mul_sub, Nat.mul_one]
  exact_mod_cast h

/-- The two sides of the sign decision of R116. -/
theorem raw_or_negated (T : Nat) (v : Int) :
    (v ≥ 0 ∨ v ≤ -(2 ^ (T - 8))) ∨ (v < 0 ∧ -(2 ^ (T - 8)) < v) := by omega

/-- Settles O27: on either side of the threshold the three properties of `n` make it `minBytes u`, the byte count of the
parts of that side. -/
theorem packSignedNegatesBelowTheThreshold : Obligations.PackSignedNegatesBelowTheThreshold := by
  rintro ⟨i, T⟩ hrow s v u n c hs rfl ⟨hraw, hneg⟩ hpos hfits hleast
  obtain ⟨W, rfl, hW2, hW8, hi, hparts⟩ :
      ∃ W, T = 8 * W ∧ 2 ≤ W ∧ W ≤ 8 ∧ family i = .encoder ∧ encodeParts i s.val = signedParts T s.val := by
    fin_cases hrow
    · exact ⟨4, rfl, by decide, by decide, rfl, rfl⟩
    · exact ⟨8, rfl, by decide, by decide, rfl, rfl⟩
  have hbytes : 8 * W / 8 = W := Nat.mul_div_cancel_left W (by decide)
  simp only [hbytes]
  obtain h | ⟨hv, hT⟩ := raw_or_negated (8 * W) (s.val.setWidth (8 * W)).toInt
  · obtain ⟨rfl, rfl⟩ := hraw h
    have hu : s.val.toNat % 2 ^ (8 * W) < 256 ^ W := two_pow_eight_mul W ▸ Nat.mod_lt _ (by positivity)
    have hn := minBytes_unique (hu.trans_le (pow_byte_le hW8)) hpos hfits hleast
    rw [signedParts_raw h, hn] at hparts
    refine ⟨hleast W (by omega) hu, fun hc => by omega, fun hv _ => ?_, exec_encodesAs hi hs hparts⟩
    rw [← hn, minBytes_of_toInt_neg (by omega) hW8 hv]
  · obtain ⟨hu, rfl⟩ : (u : Int) = -(s.val.setWidth (8 * W)).toInt ∧ c = 8 + n := hneg hv hT
    have hlt : u < 256 ^ (W - 1) := magnitude_lt (by omega)
    have hle : n ≤ W - 1 := hleast _ (by omega) hlt
    have hn := minBytes_unique (hlt.trans_le (pow_byte_le (by omega))) hpos hfits hleast
    rw [signedParts_negated hv hT hu, hn] at hparts
    exact ⟨by omega, fun _ => by omega, fun _ hc => by omega, exec_encodesAs hi hs hparts⟩

/-! ### PKF (R120) -/

/-- Settles O28: the quantity is the low `W` bytes of VAL, whose bytes are those of VAL. -/
theorem packFloatCopiesThePattern : Obligations.PackFloatCopiesThePattern := by
  rintro ⟨i, W⟩ hrow s hs
  obtain ⟨hi, hparts⟩ : family i = .encoder ∧ encodeParts i s.val = (valueField W s.val, W, W) := by
    fin_cases hrow <;> exact ⟨rfl, rfl⟩
  rw [valueField_eq] at hparts
  exact (exec_encodesAs hi hs hparts).of_mod

/-! ### The code and the width of what was stored (R125, 30_encoding.md R71) -/

theorem signedParts_code {W : Nat} (hW : 2 ≤ W) (x : Word) :
    ∃ u n c, signedParts (8 * W) x = (u, n, c) ∧ 1 ≤ n ∧ (c = n ∧ n ≤ 8 ∨ c = 8 + n ∧ n ≤ W - 1) := by
  obtain h | ⟨hv, hT⟩ := raw_or_negated (8 * W) (x.setWidth (8 * W)).toInt
  · exact ⟨_, _, _, signedParts_raw h, minBytes_pos _, .inl ⟨rfl, minBytes_le_eight _⟩⟩
  · have hm : ((-(x.setWidth (8 * W)).toInt).toNat : Int) = -(x.setWidth (8 * W)).toInt :=
      Int.toNat_of_nonneg (by omega)
    exact ⟨_, _, _, signedParts_negated hv hT hm, minBytes_pos _,
      .inr ⟨rfl, minBytes_le (by omega) (magnitude_lt (by omega))⟩⟩

/-- The code is the byte count, except that PKS adds 8 to that of a magnitude. -/
theorem encodeParts_code {i : Instr} (hi : family i = .encoder) (x : Word) :
    ∃ u n c, encodeParts i x = (u, n, c) ∧ 1 ≤ n ∧
      (c = n ∧ n ≤ 8 ∨ c = 8 + n ∧ (i = .pksI32 ∧ n ≤ 3 ∨ i = .pksI64 ∧ n ≤ 7)) := by
  cases i with
  | pkuU8 | pkuU16 | pkuU32 | pkuU64 | pkp => exact ⟨_, _, _, rfl, minBytes_pos _, .inl ⟨rfl, minBytes_le_eight _⟩⟩
  | pksI32 => simpa [encodeParts] using signedParts_code (W := 4) (by decide) x
  | pksI64 => simpa [encodeParts] using signedParts_code (W := 8) (by decide) x
  | pkfF32 | pkfF64 => exact ⟨_, _, _, rfl, by decide, .inl ⟨rfl, by decide⟩⟩
  | _ => cases hi

theorem effWidth_codeField {n c : Nat} (hn : 1 ≤ n) (hc : c = n ∧ n ≤ 8 ∨ c = 8 + n ∧ n ≤ 7) :
    effWidth (codeField (BitVec.ofNat 64 c)) = n := by
  have hcode : (codeField (BitVec.ofNat 64 c)).toNat = c := by
    rw [codeField_toNat, BitVec.toNat_ofNat]
    omega
  rw [effWidth, hcode]
  split_ifs <;> omega

/-- Settles O29: CPOS moves by the byte count of the parts, and the count is the effective width of their code. -/
theorem encodedWidthIsTheCodesWidth : Obligations.EncodedWidthIsTheCodesWidth := by
  intro i s t hi hs hexec ht
  obtain ⟨u, n, c, hparts, hn, hcode⟩ := encodeParts_code hi s.val
  obtain ⟨hroom, htcode, htcpos⟩ := (exec_encodesAs hi hs hparts).of_ok hexec ht
  have hlen := s.clen.isLt
  have hc : (BitVec.ofNat 64 c).toNat = c := by
    rw [BitVec.toNat_ofNat]
    omega
  rw [htcode, htcpos, effWidth_codeField hn (by omega), hc, BitVec.toNat_ofNat, Nat.mod_eq_of_lt (by omega)]
  refine ⟨rfl, by omega, by omega, fun h8 => ?_⟩
  obtain ⟨rfl, hle⟩ | ⟨rfl, ⟨rfl, hle⟩ | ⟨rfl, hle⟩⟩ := hcode
  · omega
  · exact .inl ⟨rfl, by omega⟩
  · exact .inr rfl

end Sys2Proof.Machine

/-! ## The Size Scanner: SCAN and the scan that NBNEW shares with it (42_size_scanner.md R140 to R143)

The scan as a sum over codes, from which its bounds, its pairwise form and its value follow; then what depends on the
array: SCAN and NBNEW see the codes counted and nothing else of it, and the codes of encode commands give the bytes they
wrote. -/

namespace Sys2Proof.Machine

/-! ### The scan of an array (R140) -/

section Scan
variable (m : Memory) (A : Nat)

theorem nib_even (j : Nat) : nib m A (2 * j) = pairFirst (m.read (A + j)) := by
  rw [nib, if_pos (Nat.mul_mod_right 2 j), Nat.mul_div_cancel_left j (by decide)]

theorem nib_odd (j : Nat) : nib m A (2 * j + 1) = pairSecond (m.read (A + j)) := by
  rw [nib, if_neg (by omega), show (2 * j + 1) / 2 = j by omega]

theorem nib_toNat (i : Nat) :
    (nib m A i).toNat =
      if i % 2 = 0 then (m.read (A + i / 2)).toNat % 16 else (m.read (A + i / 2)).toNat / 16 := by
  rw [nib, apply_ite BitVec.toNat, pairFirst_toNat, pairSecond_toNat]

theorem scanTotal_eq_sum (n : Nat) : scanTotal m A n = ∑ i ∈ Finset.range n, effWidth (nib m A i) := by
  induction n with
  | zero => rfl
  | succ n ih => rw [scanTotal, ih, Finset.sum_range_succ]

theorem scanTotal_bounds (n : Nat) : n ≤ scanTotal m A n ∧ scanTotal m A n ≤ 16 * n := by
  induction n with
  | zero => exact ⟨le_rfl, le_rfl⟩
  | succ n ih =>
    have hw := effWidth_bounds (nib m A n)
    rw [scanTotal]
    omega

theorem scanTotal_pairs (k : Nat) :
    scanTotal m A (2 * k) =
      ∑ j ∈ Finset.range k, (effWidth (pairFirst (m.read (A + j))) + effWidth (pairSecond (m.read (A + j)))) := by
  induction k with
  | zero => rfl
  | succ k ih =>
    rw [Finset.sum_range_succ, ← ih, ← nib_even, ← nib_odd, ← Nat.add_assoc]
    rfl

/-- For an odd count the trailing pair gives its first nibble alone. -/
theorem scanTotal_pairwise (n : Nat) :
    scanTotal m A n =
      (∑ j ∈ Finset.range (n / 2),
        (effWidth (pairFirst (m.read (A + j))) + effWidth (pairSecond (m.read (A + j))))) +
      (if n % 2 = 1 then effWidth (pairFirst (m.read (A + n / 2))) else 0) := by
  rw [← scanTotal_pairs, ← nib_even]
  obtain heven | hodd := Nat.mod_two_eq_zero_or_one n
  · rw [if_neg (by omega), Nat.add_zero, show 2 * (n / 2) = n by omega]
  · rw [if_pos hodd, ← scanTotal, Nat.succ_eq_add_one, show 2 * (n / 2) + 1 = n by omega]

end Scan

/-- Settles O31: the scan is a sum of widths between 1 and 16, taken one by one or pair by pair. -/
theorem scanTotalIsBoundedAndPairwise : Obligations.ScanTotalIsBoundedAndPairwise := by
  refine ⟨rfl, fun m A n => ?_⟩
  obtain ⟨hlow, hhigh⟩ := scanTotal_bounds m A n
  exact ⟨hlow, hhigh, rfl, scanTotal_eq_sum m A n, scanTotal_pairwise m A n⟩

/-! ### SCAN (R141) -/

/-- A command that answers OK on a CORE that is not halted has run its body to the end. -/
theorem exec_body_of_ok {i : Instr} {s t : State} (hs : s.halted = false) (h : exec i s = .next t)
    (ht : t.reply = .status 0) : ∃ u, bodyOf i s = .ok u ∧ t = u.answer (.status statusOk) := by
  obtain ⟨hh, -⟩ | ⟨-, hbody⟩ | ⟨-, c, -, rfl⟩ := exec_next h
  · exact absurd (hs.symm.trans hh) (by decide)
  · exact hbody
  · exact absurd (Reply.status.inj ht) (causeCode_ne_zero c)

theorem nmax_eq : Config.nmax = 2 ^ 28 - 1 := rfl

/-- Everything the rule of SCAN can answer. -/
theorem scanSize_eq (s : State) :
    scanSize s =
      if ¬ s.CursorWellFormed then .error (.raise .badCursor)
      else if s.cnt.toNat > Config.nmax then .error (.raise .badCount)
      else if s.cpos.toNat + ceilHalf s.cnt.toNat ≤ s.clen.toNat then
        .ok (s.setVal (BitVec.ofNat 64 (scanTotal s.mem s.cursorAddr s.cnt.toNat)))
      else .error (.raise .overrun) := by
  unfold scanSize
  rw [scanArray_eq]
  split_ifs <;> rfl

/-- A count that SCAN accepts is at most 2^28 - 1, and each code counts at most 16. -/
theorem scanSize_val_lt {s u : State} (h : scanSize s = .ok u) : u.val.toNat < 2 ^ 32 := by
  rw [scanSize_eq] at h
  split_ifs at h with _ hcount _
  cases h
  have htotal := (scanTotal_bounds s.mem s.cursorAddr s.cnt.toNat).2
  rw [nmax_eq] at hcount
  rw [State.setVal_val, BitVec.toNat_ofNat]
  omega

/-- Settles O30: each clause is a branch of `scanSize_eq`, the last with the widths of the codes written out. -/
theorem scanSumsTheEffectiveWidths : Obligations.ScanSumsTheEffectiveWidths := by
  refine ⟨rfl, fun s hs => ?_⟩
  have hbody : bodyOf .scan s = _ := scanSize_eq s
  rw [nmax_eq] at hbody
  unfold ceilHalf at hbody
  refine ⟨fun t hexec ht => ?_, fun hc => ?_, fun hc hcount => ?_, fun hc hcount hroom => ?_,
    fun hc hcount hroom => ?_⟩
  · obtain ⟨u, hu, rfl⟩ := exec_body_of_ok hs hexec ht
    exact scanSize_val_lt (u := u) hu
  · rw [if_pos hc] at hbody
    rw [exec_raise hs hbody, State.takeFault_encode]
  · rw [if_neg (not_not.mpr hc), if_pos hcount] at hbody
    rw [exec_raise hs hbody, State.takeFault_encode]
  · rw [if_neg (not_not.mpr hc), if_neg (Nat.not_lt.mpr hcount), if_neg (Nat.not_le.mpr hroom)] at hbody
    rw [exec_raise hs hbody, State.takeFault_encode]
  · rw [if_neg (not_not.mpr hc), if_neg (Nat.not_lt.mpr hcount), if_pos hroom, scanTotal_eq_sum] at hbody
    simp only [effWidth, nib_toNat] at hbody
    exact exec_ok hs hbody

/-! ### The nibble that is not counted (R143, 90_conflicts.md C8) -/

theorem scanTotal_congr_nib {m m' : Memory} {A n : Nat} (h : ∀ i < n, nib m' A i = nib m A i) :
    scanTotal m' A n = scanTotal m A n := by
  rw [scanTotal_eq_sum, scanTotal_eq_sum]
  exact Finset.sum_congr rfl fun i hi => congrArg effWidth (h i (Finset.mem_range.mp hi))

/-- Of an odd number of codes the last is the low nibble of the byte at offset `n div 2`; the others lie before it. -/
theorem nib_eq_of_unusedNibble {m m' : Memory} {A n : Nat} (hodd : n % 2 = 1)
    (hother : ∀ a, a ≠ A + n / 2 → m'.read a = m.read a)
    (hlow : (m'.read (A + n / 2)).toNat % 16 = (m.read (A + n / 2)).toNat % 16) (i : Nat) (hi : i < n) :
    nib m' A i = nib m A i := by
  by_cases hlast : i / 2 = n / 2
  · apply BitVec.eq_of_toNat_eq
    have heven : i % 2 = 0 := by omega
    rw [nib_toNat, nib_toNat, if_pos heven, if_pos heven, hlast, hlow]
  · exact nib_congr (hother _ (by omega))

section OtherArray
variable {i : Instr} {s t : State} {m : Memory}

/-- The checks of a scan look at registers alone. -/
theorem scanArray_setMem_of_total
    (h : scanTotal m s.cursorAddr s.cnt.toNat = scanTotal s.mem s.cursorAddr s.cnt.toNat) :
    scanArray (s.setMem m) = scanArray s := by
  rw [scanArray_eq, scanArray_eq, ← h]
  rfl

/-- SCAN and NBNEW take from memory what the scan of the array returns and nothing else. -/
theorem bodyOf_setMem_of_scanArray (hi : i = .scan ∨ i = .nbnew) (h : scanArray (s.setMem m) = scanArray s) :
    bodyOf i (s.setMem m) = (bodyOf i s).map (State.setMem · m) := by
  obtain rfl | rfl := hi
  · change scanSize _ = (scanSize s).map _
    unfold scanSize
    rw [h]
    exact bind_eq_map fun _ => rfl
  · change construct _ = (construct s).map _
    unfold construct
    rw [h]
    exact bind_eq_map fun _ => bind_eq_map fun _ => rfl

/-- Where the body of a command commutes with an exchange of memory, so does the command: a halted CORE and a fault leave
memory as it is. -/
theorem exec_setMem (hbody : bodyOf i (s.setMem m) = (bodyOf i s).map (State.setMem · m))
    (h : exec i s = .next t) : exec i (s.setMem m) = .next (t.setMem m) := by
  obtain ⟨hs, rfl⟩ | ⟨hs, u, hb, rfl⟩ | ⟨hs, c, hb, rfl⟩ := exec_next h
  · exact exec_halted (s := s.setMem m) hs
  · rw [hb] at hbody
    exact exec_ok (s := s.setMem m) hs hbody
  · rw [hb] at hbody
    exact exec_raise (s := s.setMem m) hs hbody

end OtherArray

/-- Settles O32: the codes counted are the same in both memories, and so is the scan that SCAN and NBNEW make. -/
theorem unusedNibbleHasNoEffect : Obligations.UnusedNibbleHasNoEffect := by
  intro s t m hodd hother hlow i hi hexec
  have htotal := scanTotal_congr_nib (nib_eq_of_unusedNibble hodd hother hlow)
  exact exec_setMem (bodyOf_setMem_of_scanArray hi (scanArray_setMem_of_total htotal)) hexec

/-! ### The codes of encode commands (R142) -/

theorem exec_of_execOk {i : Instr} {s t : State} (h : execOk i s = some t) :
    exec i s = .next t ∧ t.reply = .status 0 := by
  unfold execOk at h
  split at h
  next u hexec =>
    split_ifs at h with hreply
    cases h
    exact ⟨hexec, hreply⟩
  next => cases h

/-- A command that answers OK has raised no fault. -/
theorem exec_ok_not_halted {i : Instr} {s t : State} (hs : s.halted = false) (h : exec i s = .next t)
    (ht : t.reply = .status 0) : t.halted = false := by
  obtain ⟨u, hu, rfl⟩ := exec_body_of_ok hs h ht
  rw [State.halted, State.answer_fstat, (bodyOf_effect hu).fstat_eq]
  exact hs

/-- Packing a value and then the others: the code of the first is CODE after its command. -/
theorem packAll_cons {i : Instr} {v : Word} {l : List (Instr × Word)} {s t : State} {codes : List Nibble}
    (h : packAll ((i, v) :: l) s = some (codes, t)) :
    ∃ u rest, execOk i (s.setX 0 v) = some u ∧ packAll l u = some (rest, t) ∧ codes = codeField u.code :: rest := by
  obtain ⟨u, hu, h⟩ := Option.bind_eq_some_iff.mp h
  obtain ⟨⟨rest, t'⟩, hrest, he⟩ := Option.map_eq_some_iff.mp h
  cases he
  exact ⟨u, rest, hu, hrest, rfl⟩

/-- Each encode command moves CPOS by the effective width of the code it returns (41_encoder.md R125). -/
theorem packAll_moves_cpos (l : List (Instr × Word)) {s t : State} {codes : List Nibble} (hs : s.halted = false)
    (henc : ∀ e ∈ l, family e.1 = .encoder) (h : packAll l s = some (codes, t)) :
    codes.length = l.length ∧ s.cpos.toNat + (codes.map effWidth).sum = t.cpos.toNat := by
  induction l generalizing s codes with
  | nil =>
    cases h
    exact ⟨rfl, rfl⟩
  | cons e l ih =>
    obtain ⟨i, v⟩ := e
    obtain ⟨hi, hl⟩ := List.forall_mem_cons.mp henc
    obtain ⟨u, rest, hu, hrest, rfl⟩ := packAll_cons h
    obtain ⟨hexec, hreply⟩ := exec_of_execOk hu
    have hs' : (s.setX 0 v).halted = false := by rw [State.setX_halted, hs]
    obtain ⟨hcpos, -⟩ := encodedWidthIsTheCodesWidth i _ u hi hs' hexec hreply
    obtain ⟨hlen, hsum⟩ := ih (exec_ok_not_halted hs' hexec hreply) hl hrest
    rw [State.setX_cpos s v (by decide)] at hcpos
    refine ⟨congrArg (· + 1) hlen, ?_⟩
    rw [List.map_cons, List.sum_cons, ← Nat.add_assoc, ← hcpos, hsum]

/-- The scan of an array that holds a list of codes is the sum of their widths. -/
theorem scanTotal_of_codes (m : Memory) (A : Nat) (codes : List Nibble)
    (h : ∀ j c, codes[j]? = some c → nib m A j = c) :
    scanTotal m A codes.length = (codes.map effWidth).sum := by
  induction codes using List.reverseRecOn with
  | nil => rfl
  | append_singleton codes c ih =>
    have hinit : ∀ j d, codes[j]? = some d → nib m A j = d := fun j d hj =>
      h j d (by rw [List.getElem?_append_left (List.getElem?_eq_some_iff.mp hj).1, hj])
    have hlast : nib m A codes.length = c := h _ c List.getElem?_concat_length
    rw [List.length_append, List.length_singleton, scanTotal, ih hinit, hlast, List.map_append, List.sum_append,
      List.map_singleton, List.sum_singleton]

/-- Settles O43: both sides are the sum of the widths of the codes. -/
theorem scanAgreesWithTheEncoder : Obligations.ScanAgreesWithTheEncoder := by
  intro l s t codes m A hs henc hpack hcodes
  obtain ⟨hlen, hsum⟩ := packAll_moves_cpos l hs henc hpack
  refine ⟨hlen, ?_⟩
  rw [← hlen, scanTotal_of_codes m A codes hcodes, hsum]

end Sys2Proof.Machine

/-! ## The Decoder: UPI, UPP, UPF (43_decoder.md R150 to R168)

What a decode command answers over the code in CODE and the bytes at the cursor; then the state that an encode command
leaves, with CPOS put back, and what each decode command makes of it. -/

namespace Sys2Proof.Machine

/-! ### The stored number, the accumulator and the cast as numbers (R151, R152) -/

theorem readLE_eq_bytesValue (m : Memory) (a k : Nat) : m.readLE a k = bytesValue m a k := m.readLE_eq_sum a k

theorem bytesValue_lt (m : Memory) (a k : Nat) : bytesValue m a k < 256 ^ k :=
  readLE_eq_bytesValue m a k ▸ m.readLE_lt a k

/-- The bytes an encode command wrote, read back. -/
theorem bytesValue_writeLE {u n : Nat} (m : Memory) (a : Nat) (h : u < 256 ^ n) :
    bytesValue (m.writeLE a n u) a n = u := by
  rw [← readLE_eq_bytesValue, Memory.readLE_writeLE_same, Nat.mod_eq_of_lt h]

theorem intWidth_le_eight {c : Nat} (h : c < 16) : intWidth c ≤ 8 := by
  unfold intWidth
  split <;> omega

theorem accOf_of_le {c raw : Nat} (h : c ≤ 8) : accOf c raw = raw := if_neg (Nat.not_lt.mpr h)

/-- The accumulator of the model, negated or not, is that of R151. -/
theorem accumulator_eq (c : Nat) {raw : Nat} (h : raw < 2 ^ 64) :
    (if c > 8 then neg64 (BitVec.ofNat 64 raw) else BitVec.ofNat 64 raw) = BitVec.ofNat 64 (accOf c raw) := by
  unfold accOf neg64
  split
  · apply BitVec.eq_of_toNat_eq
    rw [BitVec.toNat_ofNat, BitVec.toNat_ofNat, BitVec.toNat_ofNat, Nat.mod_eq_of_lt h, Nat.mod_mod]
  · rfl

theorem typeBits_le (t : TypeTag) : 8 * typeBytes t ≤ 64 := by cases t <;> decide

theorem castTo_signed {t : TypeTag} (ht : typeClass t = .signed) (a : Nat) :
    castTo t (BitVec.ofNat 64 a) = (BitVec.ofNat (8 * typeBytes t) a).signExtend 64 := by
  rw [castTo, ht, BitVec.setWidth_ofNat_of_le (typeBits_le t)]

theorem castTo_not_signed {t : TypeTag} (ht : typeClass t ≠ .signed) (a : Nat) :
    castTo t (BitVec.ofNat 64 a) = BitVec.ofNat 64 (a % 2 ^ (8 * typeBytes t)) := by
  have hcast : castTo t (BitVec.ofNat 64 a) =
      ((BitVec.ofNat 64 a).setWidth (8 * typeBytes t)).setWidth 64 := by
    unfold castTo
    split
    next hsigned => exact absurd hsigned ht
    next => rfl
  rw [hcast, BitVec.setWidth_ofNat_of_le (typeBits_le t), ← BitVec.ofNat_toNat, BitVec.toNat_ofNat]

/-- The cast of the model is the widening of R152. -/
theorem castTo_eq_widened (t : TypeTag) (a : Nat) :
    castTo t (BitVec.ofNat 64 a) = widened (decide (typeClass t = .signed)) (8 * typeBytes t) a := by
  by_cases ht : typeClass t = .signed
  · rw [castTo_signed ht, widened, if_pos (decide_eq_true ht), BitVec.signExtend]
  · rw [castTo_not_signed ht, widened, if_neg (by simpa using ht)]

/-! ### What each body answers (R150, R151, R163) -/

/-- Everything the rule of UPI and UPP can answer. -/
theorem unpack_integer_eq {t : TypeTag} (ht : typeClass t ≠ .float) {s : State} {c : Nat}
    (hc : c = s.code.toNat % 16) :
    unpack t s =
      if ¬ s.CursorWellFormed then .error (.raise .badCursor)
      else if c = 0 then .error (.raise .reservedCode)
      else if s.cpos.toNat + intWidth c ≤ s.clen.toNat then
        .ok ((s.setVal (castTo t (BitVec.ofNat 64 (accOf c (bytesValue s.mem s.cursorAddr (intWidth c)))))).advance
          (intWidth c))
      else .error (.raise .overrun) := by
  rw [unpack_eq, ite_not]
  refine ite_congr rfl (fun hcur => ?_) fun _ => rfl
  have hraw : bytesValue s.mem s.cursorAddr (intWidth c) < 2 ^ 64 :=
    (bytesValue_lt ..).trans_le (pow_byte_le (intWidth_le_eight (by omega)))
  have haddr : s.cbase.toNat + s.cpos.toNat = s.cursorAddr := rfl
  rw [decodeAs_int ht, intDecode_eq _ _ _ hcur.2, codeField_toNat, ← hc, haddr, readLE_eq_bytesValue,
    accumulator_eq c hraw]
  split_ifs <;> rfl

theorem fltWidth_eq (c : Nibble) : fltWidth c = if c.toNat = 0 then 16 else c.toNat := rfl

/-- Everything the rule of UPF can answer: the pattern where the code is the width, else a free value. -/
theorem unpack_float_eq {t : TypeTag} (ht : typeClass t = .float) {s : State} {c k : Nat}
    (hc : c = s.code.toNat % 16) (hk : k = if c = 0 then 16 else c) :
    unpack t s =
      if ¬ s.CursorWellFormed then .error (.raise .badCursor)
      else if s.cpos.toNat + k ≤ s.clen.toNat then
        .ok ((s.setResult (if c = typeBytes t then some (BitVec.ofNat 64 (bytesValue s.mem s.cursorAddr (typeBytes t)))
          else none)).advance k)
      else .error (.raise .overrun) := by
  rw [unpack_eq, ite_not]
  refine ite_congr rfl (fun hcur => ?_) fun _ => rfl
  have hdecode (B L p : Nat) (x : Nibble) : decodeAs t s.mem B L p x = fltDecode s.mem B L p x (typeBytes t) := by
    rw [decodeAs, ht]
  have hmatch : (typeBytes t = 4 ∧ codeField s.code = 4 ∨ typeBytes t = 8 ∧ codeField s.code = 8) ↔
      c = typeBytes t := by
    have hW : typeBytes t = 4 ∨ typeBytes t = 8 := by
      cases t with
      | f32 => exact .inl rfl
      | f64 => exact .inr rfl
      | _ => cases ht
    rw [← BitVec.toNat_inj, ← BitVec.toNat_inj, codeField_toNat, ← hc]
    change typeBytes t = 4 ∧ c = 4 ∨ typeBytes t = 8 ∧ c = 8 ↔ _
    omega
  have haddr : s.cbase.toNat + s.cpos.toNat = s.cursorAddr := rfl
  have hwidth : fltWidth (codeField s.code) = k := by rw [fltWidth_eq, codeField_toNat, ← hc, hk]
  rw [hdecode, fltDecode_eq _ _ _ _ hcur.2, hwidth, haddr, readLE_eq_bytesValue]
  simp only [hmatch]
  split_ifs <;> rfl

/-! ### The commands (R153 to R165) -/

theorem exec_fault {i : Instr} {s : State} {c : Cause} (hs : s.halted = false)
    (h : bodyOf i s = .error (.raise c)) : exec i s = .next (s.afterFault c i) := by
  rw [exec_raise hs h, State.takeFault_encode]

/-- Settles O33: each clause is a branch of `unpack_integer_eq`, with the cast of each tag as its row of R82 has it. -/
theorem unpackIntegerReadsBack : Obligations.UnpackIntegerReadsBack := by
  rintro ⟨i, signed, w⟩ hrow s c k hs hc rfl
  obtain ⟨hi, rfl, rfl⟩ : family i = .integerDecoder ∧ signed = decide (typeClass (tagOf i) = .signed) ∧
      w = 8 * typeBytes (tagOf i) := by
    fin_cases hrow <;> exact ⟨rfl, rfl, rfl⟩
  obtain ⟨hunpack, ht⟩ := bodyOf_integerDecoder hi
  have hbody := (congrFun hunpack s).trans (unpack_integer_eq ht hc)
  rw [castTo_eq_widened] at hbody
  refine ⟨fun hcur => ?_, fun hcur h0 => ?_, fun hcur h0 hroom => ?_, fun hcur h0 hroom => ?_⟩
  · rw [if_pos hcur] at hbody
    exact exec_fault hs hbody
  · rw [if_neg (not_not.mpr hcur), if_pos h0] at hbody
    exact exec_fault hs hbody
  · rw [if_neg (not_not.mpr hcur), if_neg h0, if_neg (Nat.not_le.mpr hroom)] at hbody
    exact exec_fault hs hbody
  · rw [if_neg (not_not.mpr hcur), if_neg h0, if_pos hroom] at hbody
    exact exec_ok hs hbody

/-- Settles O34: each clause is a branch of `unpack_float_eq`; the code decides between the pattern and a free value. -/
theorem unpackFloatKeepsTheDispatch : Obligations.UnpackFloatKeepsTheDispatch := by
  rintro ⟨i, W⟩ hrow s c k hs hc hk
  obtain ⟨hi, rfl⟩ : family i = .floatDecoder ∧ W = typeBytes (tagOf i) := by
    fin_cases hrow <;> exact ⟨rfl, rfl⟩
  obtain ⟨hunpack, ht⟩ := bodyOf_floatDecoder hi
  have hbody := (congrFun hunpack s).trans (unpack_float_eq ht hc hk)
  refine ⟨fun hcur => ?_, fun hcur hroom => ?_, fun hcur hroom hW => ?_, fun hcur hroom hW => ?_⟩
  · rw [if_pos hcur] at hbody
    exact exec_fault hs hbody
  · rw [if_neg (not_not.mpr hcur), if_neg (Nat.not_le.mpr hroom)] at hbody
    exact exec_fault hs hbody
  · rw [if_neg (not_not.mpr hcur), if_pos hroom, if_pos hW] at hbody
    exact exec_ok hs hbody
  · rw [if_neg (not_not.mpr hcur), if_pos hroom, if_neg hW] at hbody
    exact ⟨_, exec_ok hs hbody⟩

/-! ### What an encode command leaves for the decode command (R166) -/

/-- `s` with the low `n` bytes of `u` at the cursor and the code `c` in CODE, answered OK, the cursor not moved. -/
def State.stored (s : State) (u n c : Nat) : State :=
  { s with mem := s.mem.writeLE s.cursorAddr n u, code := BitVec.ofNat 64 c, reply := .status 0 }

/-- From where `s` stood, the decode command `d` reads the value `r` out of `t` and ends at the position of `t`. -/
def ReadsBack (d : Instr) (s t : State) (r : Word) : Prop :=
  ∃ v, exec d { t with cpos := s.cpos } = .next v ∧ v.reply = .status 0 ∧ v.cpos = t.cpos ∧ v.val = r

section AfterEncode
variable {i d : Instr} {s t : State} {u n c : Nat}

theorem exec_encoder_ok (hi : family i = .encoder) (hs : s.halted = false) (hexec : exec i s = .next t)
    (ht : t.reply = .status 0) (hparts : encodeParts i s.val = (u, n, c)) :
    s.CursorWellFormed ∧ s.cpos.toNat + n ≤ s.clen.toNat ∧ t = (s.stored u n c).advance n := by
  obtain ⟨w, hw, rfl⟩ := exec_body_of_ok hs hexec ht
  rw [bodyOf_encoder hi, hparts, encodeAs_eq] at hw
  split_ifs at hw with hcur hroom
  cases hw
  exact ⟨hcur, hroom, rfl⟩

/-- With CPOS put back the state is `State.stored`, and the body of the decode command says what is read from it. -/
theorem readsBack_stored {r : Word} (hs : s.halted = false)
    (hbody : bodyOf d (s.stored u n c) = .ok (((s.stored u n c).setVal r).advance n)) :
    ReadsBack d s ((s.stored u n c).advance n) r :=
  ⟨_, exec_ok (s := s.stored u n c) hs hbody, rfl, rfl, rfl⟩

/-- The two ways PKS stores a number, on either side of the threshold of R116. -/
theorem signedParts_cases {T : Nat} {x : Word} (h : signedParts T x = (u, n, c)) :
    n = minBytes u ∧
      (u = x.toNat % 2 ^ T ∧ c = n ∨ (u : Int) = -(x.setWidth T).toInt ∧ u < 2 ^ (T - 8) ∧ c = 8 + n) := by
  obtain hraw | ⟨hv, hlow⟩ := raw_or_negated T (x.setWidth T).toInt
  · rw [signedParts_raw hraw] at h
    cases h
    exact ⟨rfl, .inl ⟨rfl, rfl⟩⟩
  · have hm : ((-(x.setWidth T).toInt).toNat : Int) = -(x.setWidth T).toInt := Int.toNat_of_nonneg (by omega)
    rw [signedParts_negated hv hlow hm] at h
    cases h
    have hlt : ((-(x.setWidth T).toInt).toNat : Int) < 2 ^ (T - 8) := by omega
    exact ⟨rfl, .inr ⟨hm, by exact_mod_cast hlt, rfl⟩⟩

theorem signedParts_lt {T : Nat} {x : Word} (hT : T ≤ 64) (h : signedParts T x = (u, n, c)) : u < 2 ^ 64 := by
  obtain ⟨-, ⟨rfl, -⟩ | ⟨-, hlt, -⟩⟩ := signedParts_cases h
  · exact (Nat.mod_le ..).trans_lt x.isLt
  · exact hlt.trans_le (Nat.pow_le_pow_right (by decide) (by omega))

/-- The bytes of an encode command hold its quantity (41_encoder.md R110, 00_scope.md R15). -/
theorem encodeParts_lt (hi : family i = .encoder) {x : Word} (h : encodeParts i x = (u, n, c)) : u < 256 ^ n := by
  have hunsigned (W : Nat) (hW : W ≤ 8) (h : unsignedParts W x = (u, n, c)) : u < 256 ^ n := by
    cases h
    exact lt_pow_minBytes ((valueField_lt W x).trans_le (pow_byte_le hW))
  have hsigned (T : Nat) (hT : T ≤ 64) (h : signedParts T x = (u, n, c)) : u < 256 ^ n :=
    (signedParts_cases h).1 ▸ lt_pow_minBytes (signedParts_lt hT h)
  cases i with
  | pkuU8 => exact hunsigned 1 (by decide) h
  | pkuU16 => exact hunsigned 2 (by decide) h
  | pkuU32 => exact hunsigned 4 (by decide) h
  | pkuU64 | pkp => exact hunsigned 8 (by decide) h
  | pksI32 => exact hsigned 32 (by decide) h
  | pksI64 => exact hsigned 64 (by decide) h
  | pkfF32 | pkfF64 =>
    cases h
    exact valueField_lt _ x
  | _ => cases hi

/-- The code of an encode command is not reserved, and an integer decode takes its byte count from it. -/
theorem encodeParts_intWidth (hi : family i = .encoder) {x : Word} (h : encodeParts i x = (u, n, c)) :
    1 ≤ c ∧ c < 16 ∧ intWidth c = n := by
  obtain ⟨u', n', c', h', hn, hc⟩ := encodeParts_code hi x
  cases h.symm.trans h'
  unfold intWidth
  split <;> omega

theorem State.stored_code_mod (h : c < 16) : c = (s.stored u n c).code.toNat % 16 := by
  rw [State.stored, BitVec.toNat_ofNat]
  omega

/-- An integer decode after any encode command: the accumulator of the quantity under the code, cast to the type. -/
theorem readsBack_integer (hi : family i = .encoder) (hd : family d = .integerDecoder) (hs : s.halted = false)
    (hexec : exec i s = .next t) (ht : t.reply = .status 0) (hparts : encodeParts i s.val = (u, n, c)) :
    ReadsBack d s t (castTo (tagOf d) (BitVec.ofNat 64 (accOf c u))) := by
  obtain ⟨hcur, hroom, rfl⟩ := exec_encoder_ok hi hs hexec ht hparts
  obtain ⟨hpos, hlt, hn⟩ := encodeParts_intWidth hi hparts
  obtain ⟨hunpack, hclass⟩ := bodyOf_integerDecoder hd
  have hcur' : (s.stored u n c).CursorWellFormed := hcur
  have hroom' : (s.stored u n c).cpos.toNat + n ≤ (s.stored u n c).clen.toNat := hroom
  have hval : bytesValue (s.stored u n c).mem (s.stored u n c).cursorAddr n = u :=
    bytesValue_writeLE _ _ (encodeParts_lt hi hparts)
  refine readsBack_stored hs ?_
  rw [hunpack, unpack_integer_eq hclass (State.stored_code_mod hlt), hn, hval, if_neg (not_not.mpr hcur'),
    if_neg (by omega), if_pos hroom']

/-- A float decode after an encode command that stored under the width of its type: the pattern. -/
theorem readsBack_float (hi : family i = .encoder) (hd : family d = .floatDecoder) (hs : s.halted = false)
    (hexec : exec i s = .next t) (ht : t.reply = .status 0)
    (hparts : encodeParts i s.val = (u, typeBytes (tagOf d), typeBytes (tagOf d))) :
    ReadsBack d s t (BitVec.ofNat 64 u) := by
  obtain ⟨hcur, hroom, rfl⟩ := exec_encoder_ok hi hs hexec ht hparts
  obtain ⟨hpos, hlt, -⟩ := encodeParts_intWidth hi hparts
  obtain ⟨hunpack, hclass⟩ := bodyOf_floatDecoder hd
  have hfits := encodeParts_lt hi hparts
  generalize hW : typeBytes (tagOf d) = W at *
  have hcur' : (s.stored u W W).CursorWellFormed := hcur
  have hroom' : (s.stored u W W).cpos.toNat + W ≤ (s.stored u W W).clen.toNat := hroom
  have hval : bytesValue (s.stored u W W).mem (s.stored u W W).cursorAddr W = u := bytesValue_writeLE _ _ hfits
  have hwidth : W = if W = 0 then 16 else W := by rw [if_neg (by omega)]
  refine readsBack_stored hs ?_
  rw [hunpack, unpack_float_eq hclass (State.stored_code_mod hlt) hwidth, hW, hval, if_neg (not_not.mpr hcur'),
    if_pos hroom', if_pos rfl]
  rfl

end AfterEncode

/-! ### The value that comes back (R166) -/

/-- PKU and PKP: the code is at most 8, so the accumulator is the quantity itself. -/
theorem accOf_unsignedParts {W u n c : Nat} {x : Word} (h : unsignedParts W x = (u, n, c)) :
    accOf c u = (x.setWidth (8 * W)).toNat := by
  cases h
  exact accOf_of_le (minBytes_le_eight _)

theorem setWidth_ofInt {w T : Nat} (h : w ≤ T) (v : Int) : (BitVec.ofInt T v).setWidth w = BitVec.ofInt w v := by
  obtain ⟨n, rfl | rfl⟩ := v.eq_nat_or_neg
  · rw [BitVec.ofInt_natCast, BitVec.ofInt_natCast, BitVec.setWidth_ofNat_of_le h]
  · rw [← BitVec.neg_ofNat_eq_ofInt_neg, ← BitVec.neg_ofNat_eq_ofInt_neg, BitVec.setWidth_neg_of_le h,
      BitVec.setWidth_ofNat_of_le h]

/-- Under a code above 8 the accumulator stands for the negated quantity, in every width (R151). -/
theorem ofNat_accOf_of_gt {w c raw : Nat} (hw : w ≤ 64) (hc : 8 < c) (hraw : raw < 2 ^ 64) :
    BitVec.ofNat w (accOf c raw) = BitVec.ofInt w (-raw) := by
  have hneg : BitVec.ofNat 64 (accOf c raw) = -BitVec.ofNat 64 raw := by
    apply BitVec.eq_of_toNat_eq
    rw [accOf, if_pos hc, BitVec.toNat_neg, BitVec.toNat_ofNat, BitVec.toNat_ofNat, Nat.mod_mod,
      Nat.mod_eq_of_lt hraw]
  rw [← BitVec.setWidth_ofNat_of_le hw, hneg, BitVec.neg_ofNat_eq_ofInt_neg, setWidth_ofInt hw]

/-- PKS, in every width up to that of its type: the raw pattern and the negated magnitude both stand for the number. -/
theorem ofNat_accOf_signedParts {T w u n c : Nat} {x : Word} (hw : w ≤ T) (hT : T ≤ 64)
    (h : signedParts T x = (u, n, c)) :
    BitVec.ofNat w (accOf c u) = BitVec.ofInt w (x.setWidth T).toInt := by
  obtain ⟨rfl, ⟨rfl, rfl⟩ | ⟨hu, -, rfl⟩⟩ := signedParts_cases h
  · rw [accOf_of_le (minBytes_le_eight _), ← setWidth_ofInt hw, BitVec.ofInt_toInt, ← BitVec.toNat_setWidth,
      ← BitVec.setWidth_ofNat_of_le hw, BitVec.ofNat_toNat, BitVec.setWidth_eq]
  · rw [ofNat_accOf_of_gt (hw.trans hT) (Nat.lt_add_of_pos_right (minBytes_pos _)) (signedParts_lt hT h), hu, neg_neg]

/-- R166's table for the seven encode commands that an integer decode answers. -/
theorem castTo_encodeParts {i : Instr} (hi : family i = .encoder) (hd : family (decoderOf i) = .integerDecoder)
    {x : Word} {u n c : Nat} (h : encodeParts i x = (u, n, c)) :
    castTo (tagOf (decoderOf i)) (BitVec.ofNat 64 (accOf c u)) = packedValue i x := by
  have hunsigned {t : TypeTag} (ht : typeClass t ≠ .signed) (h : unsignedParts (typeBytes t) x = (u, n, c)) :
      castTo t (BitVec.ofNat 64 (accOf c u)) = (x.setWidth (8 * typeBytes t)).setWidth 64 := by
    rw [castTo_not_signed ht, accOf_unsignedParts h, Nat.mod_eq_of_lt (BitVec.isLt _), BitVec.ofNat_toNat]
  have hsigned {t : TypeTag} (ht : typeClass t = .signed) (h : signedParts (8 * typeBytes t) x = (u, n, c)) :
      castTo t (BitVec.ofNat 64 (accOf c u)) = (x.setWidth (8 * typeBytes t)).signExtend 64 := by
    rw [castTo_signed ht, ofNat_accOf_signedParts le_rfl (typeBits_le t) h, BitVec.ofInt_toInt]
  cases i with
  | pkuU8 => exact hunsigned (t := .u8) (by decide) h
  | pkuU16 => exact hunsigned (t := .u16) (by decide) h
  | pkuU32 => exact hunsigned (t := .u32) (by decide) h
  | pkuU64 => exact (hunsigned (t := .u64) (by decide) h).trans (by simp [packedValue, typeBytes])
  | pkp => exact (hunsigned (t := .ptr) (by decide) h).trans (by simp [packedValue, typeBytes, Config.ptrBytes])
  | pksI32 => exact hsigned (t := .i32) rfl h
  | pksI64 => exact (hsigned (t := .i64) rfl h).trans (by simp [packedValue, typeBytes])
  | pkfF32 | pkfF64 => cases hd
  | _ => cases hi

/-- Settles O35: the decode command reads the quantity under its code out of the bytes just written, and for an integer
type the cast of that accumulator is the packed value; for a float type the pattern is. -/
theorem roundTripGivesTheValueBack : Obligations.RoundTripGivesTheValueBack := by
  intro i s t hi hs hexec ht
  have hinteger (hd : family (decoderOf i) = .integerDecoder) : ReadsBack (decoderOf i) s t (packedValue i s.val) :=
    castTo_encodeParts hi hd rfl ▸ readsBack_integer hi hd hs hexec ht rfl
  cases i with
  | pkuU8 | pkuU16 | pkuU32 | pkuU64 | pkp | pksI32 | pksI64 => exact hinteger rfl
  | pkfF32 =>
    have hval : packedValue .pkfF32 s.val = BitVec.ofNat 64 (valueField 4 s.val) := by
      rw [valueField, BitVec.ofNat_toNat]
      rfl
    exact hval ▸ readsBack_float (d := .upfF32) hi rfl hs hexec ht rfl
  | pkfF64 =>
    have hval : packedValue .pkfF64 s.val = BitVec.ofNat 64 (valueField 8 s.val) := by
      rw [valueField, BitVec.ofNat_toNat, BitVec.setWidth_eq, BitVec.setWidth_eq]
      rfl
    exact hval ▸ readsBack_float (d := .upfF64) hi rfl hs hexec ht rfl
  | _ => cases hi

/-! ### Decode commands of other types (R167, R168) -/

/-- A signed type no wider than the pack reads back every number in its own range (R167). -/
theorem castTo_signedParts_of_range {d : TypeTag} {T u n c : Nat} {x : Word} {v : Int} (hd : typeClass d = .signed)
    (hw : 8 * typeBytes d ≤ T) (hT : T ≤ 64) (h : signedParts T x = (u, n, c)) (hv : (x.setWidth T).toInt = v)
    (hlow : -2 ^ (8 * typeBytes d - 1) ≤ v) (hhigh : v < 2 ^ (8 * typeBytes d - 1)) :
    castTo d (BitVec.ofNat 64 (accOf c u)) = BitVec.ofInt 64 v := by
  have hpos : 0 < 8 * typeBytes d := by cases d <;> decide
  rw [castTo_signed hd, ofNat_accOf_signedParts hw hT h, hv, BitVec.signExtend,
    BitVec.toInt_ofInt_eq_self hpos hlow hhigh]

/-- Settles O36: PKS stores a number that every signed type up to 32 bits reads, each in its own range; PKU.U64 stores
VAL itself, of which UPI.U32 keeps the low 32 bits. -/
theorem narrowerTypesReadBack : Obligations.NarrowerTypesReadBack := by
  intro s t hs ht
  refine ⟨?_, fun hexec => ?_⟩
  · rintro ⟨d, w⟩ hrow x hlow hhigh hx hexec
    obtain ⟨hd, hclass, rfl, hw⟩ : family d = .integerDecoder ∧ typeClass (tagOf d) = .signed ∧
        w = 8 * typeBytes (tagOf d) ∧ 8 * typeBytes (tagOf d) ≤ 16 := by
      fin_cases hrow <;> exact ⟨rfl, rfl, rfl, by decide⟩
    have hpow : (2 : Int) ^ (8 * typeBytes (tagOf d) - 1) ≤ 2 ^ 31 := pow_le_pow_right₀ (by decide) (by omega)
    change -2 ^ (8 * typeBytes (tagOf d) - 1) ≤ x at hlow
    change x < 2 ^ (8 * typeBytes (tagOf d) - 1) at hhigh
    have hval : (s.val.setWidth 32).toInt = x := by
      rw [hx, BitVec.toInt_ofInt_eq_self (by decide) (by omega) (by omega)]
    exact castTo_signedParts_of_range hclass (by omega) (by decide) rfl hval hlow hhigh ▸
      readsBack_integer (i := .pksI32) rfl hd hs hexec ht rfl
  · have hparts : encodeParts .pkuU64 s.val = _ := unsignedParts_eq 8 s.val
    have hval : castTo .u32 (BitVec.ofNat 64 (accOf (minBytes (s.val.toNat % 256 ^ 8)) (s.val.toNat % 256 ^ 8))) =
        BitVec.ofNat 64 (s.val.toNat % 2 ^ 32) := by
      rw [castTo_not_signed (by decide), accOf_of_le (minBytes_le_eight _), show 256 ^ 8 = 2 ^ 64 from rfl,
        Nat.mod_eq_of_lt s.val.isLt]
      rfl
    exact hval ▸ readsBack_integer (d := .upiU32) rfl rfl hs hexec ht hparts

/-- As an unsigned number the pattern of a negative number is `2^T` above it. -/
theorem toNat_mod_of_toInt_neg {T : Nat} {x : Word} (h : (x.setWidth T).toInt < 0) :
    ((x.toNat % 2 ^ T : Nat) : Int) = 2 ^ T + (x.setWidth T).toInt := by
  have htop := two_pow_le_of_toInt_neg h
  rw [BitVec.toInt_eq_toNat_cond, BitVec.toNat_setWidth, if_neg (Nat.not_lt.mpr htop)]
  push_cast
  ring

/-- I64 reads a pattern of 32 bits as the unsigned number it is (R168). -/
theorem castTo_i64_toInt {a : Nat} (h : a < 2 ^ 32) : (castTo .i64 (BitVec.ofNat 64 a)).toInt = a := by
  have hcast : castTo .i64 (BitVec.ofNat 64 a) = BitVec.ofInt 64 (a : Int) := by
    rw [castTo_signed rfl, BitVec.ofInt_natCast]
    exact BitVec.signExtend_eq _
  rw [hcast, BitVec.toInt_ofInt_eq_self (by decide) (by omega) (by omega)]

/-- Settles O37: the number is stored raw in four bytes; as 64 bits the pattern reads 2^32 above the number. -/
theorem widerSignedTypeDiffers : Obligations.WiderSignedTypeDiffers := by
  rintro s t x hs rfl hx hexec ht
  have hneg : (s.val.setWidth 32).toInt < 0 := by omega
  have hfour : minBytes (s.val.toNat % 2 ^ 32) = 4 := minBytes_of_toInt_neg (W := 4) (by decide) (by decide) hneg
  have hparts : signedParts 32 s.val = (s.val.toNat % 2 ^ 32, 4, 4) := by rw [signedParts_raw (.inr hx), hfour]
  obtain ⟨-, hcode, -⟩ := (exec_encodesAs (i := .pksI32) rfl hs hparts).of_ok hexec ht
  obtain ⟨v, hv, hvreply, -, hvval⟩ := readsBack_integer (d := .upiI64) rfl rfl hs hexec ht hparts
  obtain ⟨w, hw, hwreply, -, hwval⟩ := readsBack_integer (d := .upiI32) rfl rfl hs hexec ht hparts
  refine ⟨hcode, ⟨v, hv, hvreply, ?_⟩, w, hw, hwreply, ?_⟩
  · rw [hvval, accOf_of_le (by decide), ← toNat_mod_of_toInt_neg hneg]
    exact castTo_i64_toInt (Nat.mod_lt _ (by decide))
  · have hlow := (s.val.setWidth 32).le_toInt
    have hhigh := (s.val.setWidth 32).toInt_lt
    have hcast : castTo .i32 _ = BitVec.ofInt 64 (s.val.setWidth 32).toInt :=
      castTo_signedParts_of_range rfl le_rfl (by decide) hparts rfl hlow hhigh
    rw [hwval]
    exact (congrArg BitVec.toInt hcast).trans (BitVec.toInt_ofInt_eq_self (by decide) (by omega) (by omega))

end Sys2Proof.Machine

/-! ## The Stream Cursor: NBNEW, NBNXT, NBEND (44_stream_cursor.md R180 to R203)

What each of the three operations answers; then the walk, with the positions of both cursors as functions of the number
of values passed; then the walk over a record that encode commands have written. -/

namespace Sys2Proof.Machine

/-! ### NBNEW and NBEND (R183, R202) -/

/-- Settles O38: each clause is a branch of `construct_eq`. -/
theorem nbnewConstructsTheCursor : Obligations.NbnewConstructsTheCursor := by
  refine ⟨rfl, ?_⟩
  rintro s P total hs rfl rfl
  have hbody : bodyOf .nbnew s = _ := construct_eq s
  rw [nmax_eq] at hbody
  unfold ceilHalf at hbody
  refine ⟨fun hc => ?_, fun hc hcount => ?_, fun hc hcount hroom => ?_, fun hc hcount _ hroom => ?_,
    fun hc hcount hroom => ?_⟩
  · rw [if_pos hc] at hbody
    exact exec_fault hs hbody
  · rw [if_neg (not_not.mpr hc), if_pos hcount] at hbody
    exact exec_fault hs hbody
  · rw [if_neg (not_not.mpr hc), if_neg (Nat.not_lt.mpr hcount), if_neg (by omega)] at hbody
    exact exec_fault hs hbody
  · rw [if_neg (not_not.mpr hc), if_neg (Nat.not_lt.mpr hcount), if_neg (Nat.not_le.mpr hroom)] at hbody
    exact exec_fault hs hbody
  · rw [if_neg (not_not.mpr hc), if_neg (Nat.not_lt.mpr hcount), if_pos hroom] at hbody
    exact exec_ok hs hbody

@[simp] theorem State.setResult_nbAct (s : State) (r : Option Word) : (s.setResult r).nbAct = s.nbAct := by
  rw [State.nbAct, State.setResult_nbCtl, ← State.nbAct]

/-- Only NBNEW moves the end of the record or makes a stream cursor active (10_state.md R27). -/
theorem BodyEffect.nbEnd_nbAct_eq {i : Instr} {s u : State} (h : BodyEffect i s u) (hi : i ≠ .nbnew) :
    u.nbEnd = s.nbEnd ∧ u.nbAct = s.nbAct := by
  cases h with
  | operands v c p d => exact ⟨rfl, rfl⟩
  | store v n c hi' hc hroom => exact ⟨rfl, rfl⟩
  | opened P total hi' hc hroom => exact absurd hi' hi
  | moved t c r k hi' hact hd => exact ⟨by simp, by simp⟩

/-- Settles O41: the two clauses of NBEND are the branches of `endOfArguments_eq`; a halted CORE and a fault leave the
stream cursor, and so does every body but that of NBNEW. -/
theorem nbendReturnsTheEnd : Obligations.NbendReturnsTheEnd := by
  refine ⟨rfl, fun s hs => ?_, fun i s t hi h => ?_⟩
  · have hbody : bodyOf .nbend s = _ := endOfArguments_eq s
    refine ⟨fun hact => ?_, fun hact => ?_⟩
    · rw [if_pos hact] at hbody
      exact exec_fault hs hbody
    · rw [if_neg (by simp [hact])] at hbody
      exact exec_ok hs hbody
  · obtain ⟨-, rfl⟩ | ⟨-, u, hb, rfl⟩ | ⟨-, c, -, rfl⟩ := exec_next h
    · exact ⟨rfl, rfl⟩
    · exact (bodyOf_effect hb).nbEnd_nbAct_eq hi
    · exact ⟨rfl, rfl⟩

/-! ### The current code and the decode it selects (R185, R186) -/

/-- The nibble that `curCode` takes out of the current pair byte (R185). -/
def State.currentNibble (s : State) : Nibble :=
  if s.nbHalf then pairSecond (s.mem.read (s.nbBase.toNat + s.nbPair.toNat))
  else pairFirst (s.mem.read (s.nbBase.toNat + s.nbPair.toNat))

theorem State.currentNibble_toNat (s : State) : s.currentNibble.toNat = s.currentCode := by
  rw [State.currentNibble, apply_ite BitVec.toNat, pairFirst_toNat, pairSecond_toNat]
  rfl

theorem decodeAs_integer_eq {t : TypeTag} (ht : typeClass t ≠ .float) (m : Memory) {B L : Nat} (p : Nat) {x : Nibble}
    {c : Nat} (hc : x.toNat = c) (h : B + L ≤ 2 ^ 64) :
    decodeAs t m B L p x =
      if c = 0 then .error (.raise .reservedCode)
      else if p + intWidth c ≤ L then
        .ok (some (castTo t (BitVec.ofNat 64 (accOf c (bytesValue m (B + p) (intWidth c))))), intWidth c)
      else .error (.raise .overrun) := by
  subst hc
  have hraw : bytesValue m (B + p) (intWidth x.toNat) < 2 ^ 64 :=
    (bytesValue_lt ..).trans_le (pow_byte_le (intWidth_le_eight x.isLt))
  rw [decodeAs_int ht, intDecode_eq m p x h, readLE_eq_bytesValue, accumulator_eq _ hraw]
  split_ifs <;> rfl

theorem float_typeBytes {t : TypeTag} (ht : typeClass t = .float) : typeBytes t = 4 ∨ typeBytes t = 8 := by
  cases t with
  | f32 => exact .inl rfl
  | f64 => exact .inr rfl
  | _ => cases ht

theorem decodeAs_float_eq {t : TypeTag} (ht : typeClass t = .float) (m : Memory) {B L : Nat} (p : Nat) {x : Nibble}
    {c k : Nat} (hc : x.toNat = c) (hk : k = if c = 0 then 16 else c) (h : B + L ≤ 2 ^ 64) :
    decodeAs t m B L p x =
      if p + k ≤ L then
        .ok (if c = typeBytes t then some (BitVec.ofNat 64 (bytesValue m (B + p) (typeBytes t))) else none, k)
      else .error (.raise .overrun) := by
  have hmatch : (typeBytes t = 4 ∧ x = 4 ∨ typeBytes t = 8 ∧ x = 8) ↔ c = typeBytes t := by
    have hW := float_typeBytes ht
    rw [← BitVec.toNat_inj, ← BitVec.toNat_inj, hc]
    change typeBytes t = 4 ∧ c = 4 ∨ typeBytes t = 8 ∧ c = 8 ↔ _
    omega
  have hwidth : fltWidth x = k := by rw [fltWidth_eq, hc, hk]
  have hdecode : decodeAs t m B L p x = fltDecode m B L p x (typeBytes t) := by rw [decodeAs, ht]
  rw [hdecode, fltDecode_eq m p x _ h, hwidth, readLE_eq_bytesValue]
  simp only [hmatch]

/-! ### NBNXT (R190) -/

/-- Everything the rule of NBNXT can answer under an integer or pointer tag. -/
theorem getNext_integer_eq {t : TypeTag} (ht : typeClass t ≠ .float) {s : State} (h : s.StreamCursorOk) {c : Nat}
    (hc : c = s.currentCode) :
    getNext t s =
      if s.nbAct = false then .error (.raise .nbInactive)
      else if s.nbEnd.toNat ≤ s.nbVal.toNat then .error (.raise .endOfValues)
      else if c = 0 then .error (.raise .reservedCode)
      else if s.nbVal.toNat + intWidth c ≤ s.nbEnd.toNat then
        .ok ((s.setVal (castTo t (BitVec.ofNat 64
          (accOf c (bytesValue s.mem (s.nbBase.toNat + s.nbVal.toNat) (intWidth c)))))).stepCursor (intWidth c))
      else .error (.raise .overrun) := by
  rw [getNext_eq t h]
  refine ite_congr rfl (fun _ => rfl) fun hact => ite_congr rfl (fun _ => rfl) fun _ => ?_
  have hbase := (h (by simpa using hact)).2.2
  rw [← State.currentNibble, decodeAs_integer_eq ht _ _ (hc ▸ s.currentNibble_toNat) hbase]
  split_ifs <;> rfl

/-- Everything the rule of NBNXT can answer under a float tag. -/
theorem getNext_float_eq {t : TypeTag} (ht : typeClass t = .float) {s : State} (h : s.StreamCursorOk) {c k : Nat}
    (hc : c = s.currentCode) (hk : k = if c = 0 then 16 else c) :
    getNext t s =
      if s.nbAct = false then .error (.raise .nbInactive)
      else if s.nbEnd.toNat ≤ s.nbVal.toNat then .error (.raise .endOfValues)
      else if s.nbVal.toNat + k ≤ s.nbEnd.toNat then
        .ok ((s.setResult (if c = typeBytes t then
          some (BitVec.ofNat 64 (bytesValue s.mem (s.nbBase.toNat + s.nbVal.toNat) (typeBytes t)))
          else none)).stepCursor k)
      else .error (.raise .overrun) := by
  rw [getNext_eq t h]
  refine ite_congr rfl (fun _ => rfl) fun hact => ite_congr rfl (fun _ => rfl) fun _ => ?_
  have hbase := (h (by simpa using hact)).2.2
  rw [← State.currentNibble, decodeAs_float_eq ht _ _ (hc ▸ s.currentNibble_toNat) hk hbase]
  split_ifs <;> rfl

/-- NB_CTL of an active stream cursor after a value: ACT with the other HALF (10_state.md R29). -/
theorem nbCtlWord_toggled (half : Bool) : nbCtlWord true (!half) = if half then 1 else 3 := by cases half <;> rfl

/-- The stream cursor moved while active and answered OK, in the words of the statements. -/
theorem State.stepCursor_answer {s : State} (hact : s.nbAct = true) (k : Nat) :
    (s.stepCursor k).answer (.status statusOk) = s.movedPast k := by
  unfold State.stepCursor State.movedPast
  rw [hact, nbCtlWord_toggled]
  rfl

theorem exec_stepCursor {i : Instr} {s u : State} {k : Nat} (hs : s.halted = false)
    (h : bodyOf i s = .ok (u.stepCursor k)) (hact : u.nbAct = true) : exec i s = .next (u.movedPast k) := by
  rw [exec_ok hs h, State.stepCursor_answer hact]

/-- Settles O39: each clause is a branch of `getNext_integer_eq`, with the cast of each tag as its row of R82 has it. -/
theorem nextIntegerWalksTheStreams : Obligations.NextIntegerWalksTheStreams := by
  rintro ⟨i, signed, w⟩ hrow s c k hs hinv hc rfl
  obtain ⟨hi, rfl, rfl⟩ : family i = .nextInteger ∧ signed = decide (typeClass (tagOf i) = .signed) ∧
      w = 8 * typeBytes (tagOf i) := by
    fin_cases hrow <;> exact ⟨rfl, rfl, rfl⟩
  obtain ⟨hnext, ht⟩ := bodyOf_nextInteger hi
  have hbody := (congrFun hnext s).trans (getNext_integer_eq ht hinv hc)
  rw [castTo_eq_widened] at hbody
  refine ⟨fun hact => ?_, fun hact hend => ?_, fun hact hend h0 => ?_, fun hact hend h0 hroom => ?_,
    fun hact hend h0 hroom => ?_⟩
  · rw [if_pos hact] at hbody
    exact exec_fault hs hbody
  all_goals rw [if_neg (by simp [hact])] at hbody
  · rw [if_pos hend] at hbody
    exact exec_fault hs hbody
  all_goals rw [if_neg (Nat.not_le.mpr hend)] at hbody
  · rw [if_pos h0] at hbody
    exact exec_fault hs hbody
  · rw [if_neg h0, if_neg (Nat.not_le.mpr hroom)] at hbody
    exact exec_fault hs hbody
  · rw [if_neg h0, if_pos hroom] at hbody
    exact exec_stepCursor hs hbody hact

/-- Settles O40: each clause is a branch of `getNext_float_eq`; the code decides between the pattern and a free
value. -/
theorem nextFloatWalksTheStreams : Obligations.NextFloatWalksTheStreams := by
  rintro ⟨i, W⟩ hrow s c k hs hinv hc hk
  obtain ⟨hi, rfl⟩ : family i = .nextFloat ∧ W = typeBytes (tagOf i) := by
    fin_cases hrow <;> exact ⟨rfl, rfl⟩
  obtain ⟨hnext, ht⟩ := bodyOf_nextFloat hi
  have hbody := (congrFun hnext s).trans (getNext_float_eq ht hinv hc hk)
  have hpos : 1 ≤ k := by split_ifs at hk <;> omega
  refine ⟨fun hact => ?_, fun hact hend => ?_, fun hact hend hroom => ?_, fun hact hroom hW => ?_,
    fun hact hroom hW => ?_⟩
  · rw [if_pos hact] at hbody
    exact exec_fault hs hbody
  all_goals rw [if_neg (by simp [hact])] at hbody
  · rw [if_pos hend] at hbody
    exact exec_fault hs hbody
  all_goals rw [if_neg (by omega)] at hbody
  · rw [if_neg (Nat.not_le.mpr hroom)] at hbody
    exact exec_fault hs hbody
  · rw [if_pos hroom, if_pos hW] at hbody
    exact exec_stepCursor hs hbody hact
  · rw [if_pos hroom, if_neg hW] at hbody
    exact ⟨_, exec_stepCursor hs hbody hact⟩

/-! ### A matching NBNXT (R190): the tag of the command is right for the current code -/

/-- An integer or pointer tag where the code is not 0, or a float tag of the width the code names (43_decoder.md R151,
R163): the commands of which R190 says what VAL holds after them. -/
def NextMatches (i : Instr) (c : Nibble) : Prop :=
  (family i = .nextInteger ∧ c ≠ 0) ∨ (family i = .nextFloat ∧ c.toNat = typeBytes (tagOf i))

/-- The value of type `t` under the code `c` whose bytes lie from `a` upward, where the two match (R151, R152, R163). -/
def decodedValue (t : TypeTag) (m : Memory) (a : Nat) (c : Nibble) : Word :=
  if typeClass t = .float then BitVec.ofNat 64 (bytesValue m a (effWidth c))
  else castTo t (BitVec.ofNat 64 (accOf c.toNat (bytesValue m a (effWidth c))))

theorem decodedValue_float {t : TypeTag} (ht : typeClass t = .float) (m : Memory) (a : Nat) (c : Nibble) :
    decodedValue t m a c = BitVec.ofNat 64 (bytesValue m a (effWidth c)) := if_pos ht

theorem decodedValue_integer {t : TypeTag} (ht : typeClass t ≠ .float) (m : Memory) (a : Nat) (c : Nibble) :
    decodedValue t m a c = castTo t (BitVec.ofNat 64 (accOf c.toNat (bytesValue m a (effWidth c)))) := if_neg ht

theorem effWidth_eq_intWidth {c : Nibble} (h : c.toNat ≠ 0) : effWidth c = intWidth c.toNat := by
  unfold effWidth intWidth
  split_ifs <;> omega

/-- A matching NBNXT before NB_END runs to its end: VAL is the decoded value and the cursor moves by the effective
width. -/
theorem bodyOf_next_of_matches {i : Instr} {s : State} (hinv : s.StreamCursorOk) (hact : s.nbAct = true)
    (hm : NextMatches i s.currentNibble) (hroom : s.nbVal.toNat + effWidth s.currentNibble ≤ s.nbEnd.toNat) :
    bodyOf i s =
      .ok ((s.setVal (decodedValue (tagOf i) s.mem (s.nbBase.toNat + s.nbVal.toNat) s.currentNibble)).stepCursor
        (effWidth s.currentNibble)) := by
  have hpos := (effWidth_bounds s.currentNibble).1
  have hact' : ¬ s.nbAct = false := by simp [hact]
  obtain ⟨hi, hcode⟩ | ⟨hi, hcode⟩ := hm
  · obtain ⟨hnext, ht⟩ := bodyOf_nextInteger hi
    have h0 : s.currentNibble.toNat ≠ 0 := fun h => hcode (BitVec.eq_of_toNat_eq h)
    have hwidth := effWidth_eq_intWidth h0
    rw [hnext, getNext_integer_eq ht hinv s.currentNibble_toNat, decodedValue_integer ht, hwidth, if_neg hact',
      if_neg (by omega), if_neg h0, if_pos (by omega)]
  · obtain ⟨hnext, ht⟩ := bodyOf_nextFloat hi
    have hW := float_typeBytes ht
    have hwidth : effWidth s.currentNibble = typeBytes (tagOf i) := by
      rw [effWidth_eq_intWidth (by omega), hcode, intWidth, if_pos (by omega)]
    rw [hwidth] at hpos hroom
    have hk : typeBytes (tagOf i) = if s.currentNibble.toNat = 0 then 16 else s.currentNibble.toNat := by
      rw [if_neg (by omega), hcode]
    rw [hnext, getNext_float_eq ht hinv s.currentNibble_toNat hk, decodedValue_float ht, hwidth, if_neg hact',
      if_neg (by omega), if_pos hroom, if_pos hcode]
    rfl

theorem execOk_of_bodyOf {i : Instr} {s t : State} (hs : s.halted = false) (h : bodyOf i s = .ok t) :
    execOk i s = some (t.answer (.status statusOk)) := by
  rw [execOk, exec_ok hs h]
  exact if_pos rfl

theorem bodyOf_next {i : Instr} (hi : isNext i = true) : bodyOf i = getNext (tagOf i) := by
  have hfam : family i = .nextInteger ∨ family i = .nextFloat := by simpa [isNext] using hi
  obtain h | h := hfam
  · exact (bodyOf_nextInteger h).1
  · exact (bodyOf_nextFloat h).1

/-- At the end of the record every NBNXT raises END_OF_VALUES, whatever its tag (R187). -/
theorem exec_next_at_end {i : Instr} {s : State} (hi : isNext i = true) (hs : s.halted = false)
    (hinv : s.StreamCursorOk) (hact : s.nbAct = true) (hend : s.nbEnd.toNat ≤ s.nbVal.toNat) :
    exec i s = .next (s.afterFault .endOfValues i) := by
  refine exec_fault hs ?_
  rw [bodyOf_next hi, getNext_eq _ hinv, if_neg (by simp [hact]), if_pos hend]

/-! ### The positions of the walk (30_encoding.md R73, R74) -/

/-- The code of value `j` of the record at the cursor of `s` (R73). -/
def State.codeAt (s : State) (j : Nat) : Nibble := nib s.mem s.cursorAddr j

/-- The offset from CBASE of value `j` of the record of CNT values at the cursor of `s` (R74). -/
def State.valueOffset (s : State) (j : Nat) : Nat :=
  s.cpos.toNat + ceilHalf s.cnt.toNat + scanTotal s.mem s.cursorAddr j

/-- What the NBNXT command `i` makes of value `j` of that record, where it matches. -/
def State.valueAt (s : State) (i : Instr) (j : Nat) : Word :=
  decodedValue (tagOf i) s.mem (s.cbase.toNat + s.valueOffset j) (s.codeAt j)

theorem State.valueOffset_zero (s : State) : s.valueOffset 0 = s.cpos.toNat + ceilHalf s.cnt.toNat := rfl

theorem State.valueOffset_succ (s : State) (j : Nat) :
    s.valueOffset (j + 1) = s.valueOffset j + effWidth (s.codeAt j) := (Nat.add_assoc ..).symm

theorem State.valueOffset_mono (s : State) : Monotone s.valueOffset :=
  monotone_nat_of_le_succ fun j => s.valueOffset_succ j ▸ Nat.le_add_right ..

/-- The pair byte of value `j` lies before the values. -/
theorem State.pairOffset_le (s : State) {j : Nat} (hj : j ≤ s.cnt.toNat) :
    s.cpos.toNat + j / 2 ≤ s.valueOffset j := by
  unfold State.valueOffset ceilHalf
  omega

/-- The stream cursor of `u` runs over the record at the cursor of `s`, of CNT values, and `j` of them are behind it:
the two cursors in lockstep (R180, R182). -/
structure State.WalkedTo (s : State) (j : Nat) (u : State) : Prop where
  not_halted : u.halted = false
  mem_eq : u.mem = s.mem
  active : u.nbAct = true
  base_eq : u.nbBase = s.cbase
  pair_eq : u.nbPair.toNat = s.cpos.toNat + j / 2
  half_eq : u.nbHalf = decide (j % 2 = 1)
  val_eq : u.nbVal.toNat = s.valueOffset j
  end_eq : u.nbEnd.toNat = s.valueOffset s.cnt.toNat
  in_space : s.cbase.toNat + s.valueOffset s.cnt.toNat ≤ 2 ^ 64

@[simp] theorem State.answer_nbAct (s : State) (r : Reply) : (s.answer r).nbAct = s.nbAct := rfl
@[simp] theorem State.answer_nbHalf (s : State) (r : Reply) : (s.answer r).nbHalf = s.nbHalf := rfl
@[simp] theorem State.setVal_nbAct (s : State) (v : Word) : (s.setVal v).nbAct = s.nbAct := rfl
@[simp] theorem State.setVal_nbHalf (s : State) (v : Word) : (s.setVal v).nbHalf = s.nbHalf := rfl

section Walk
variable {s t u : State} {j : Nat}

/-- NBNEW leaves the stream cursor before the first value (R183). -/
theorem walkedTo_zero_of_nbnew (hs : s.halted = false) (h : exec .nbnew s = .next t) (ht : t.reply = .status 0) :
    s.WalkedTo 0 t := by
  obtain ⟨u, hu, rfl⟩ := exec_body_of_ok hs h ht
  change construct s = .ok u at hu
  rw [construct_eq] at hu
  split_ifs at hu with hcur _ hroom
  cases hu
  obtain ⟨-, hspace⟩ := hcur
  have hlen := s.clen.isLt
  exact {
    not_halted := hs
    mem_eq := rfl
    active := by rw [State.answer_nbAct, State.openCursor_nbAct]
    base_eq := rfl
    pair_eq := rfl
    half_eq := by rw [State.answer_nbHalf, State.openCursor_nbHalf, decide_eq_false (by decide)]
    val_eq := by
      rw [State.answer_nbVal, State.openCursor_nbVal, BitVec.toNat_ofNat, Nat.mod_eq_of_lt (by omega)]
      rfl
    end_eq := by
      rw [State.answer_nbEnd, State.openCursor_nbEnd, BitVec.toNat_ofNat, Nat.mod_eq_of_lt (by omega)]
      rfl
    in_space := by
      unfold State.valueOffset
      omega }

theorem State.WalkedTo.currentNibble_eq (h : s.WalkedTo j u) : u.currentNibble = s.codeAt j := by
  rw [State.currentNibble, h.half_eq, h.base_eq, h.pair_eq, h.mem_eq, ← Nat.add_assoc, State.codeAt, nib,
    ← State.cursorAddr]
  obtain heven | hodd := Nat.mod_two_eq_zero_or_one j
  · simp [heven]
  · simp [hodd]

/-- R34 along the walk. -/
theorem State.WalkedTo.streamCursorOk (h : s.WalkedTo j u) (hj : j ≤ s.cnt.toNat) : u.StreamCursorOk := by
  intro _
  rw [h.pair_eq, h.val_eq, h.end_eq, h.base_eq]
  exact ⟨s.pairOffset_le hj, s.valueOffset_mono hj, h.in_space⟩

/-- Past a value of its effective width both cursors stand at the next one: the pair pointer moves from every second
half. -/
theorem State.WalkedTo.stepCursor (h : s.WalkedTo j u) (hj : j < s.cnt.toNat) (v : Word) (r : Reply) :
    s.WalkedTo (j + 1) (((u.setVal v).stepCursor (effWidth (s.codeAt j))).answer r) := by
  have hend : s.valueOffset (j + 1) ≤ s.valueOffset s.cnt.toNat := s.valueOffset_mono hj
  have hpair : s.cpos.toNat + (j + 1) / 2 ≤ s.valueOffset (j + 1) := s.pairOffset_le hj
  have hlt := u.nbEnd.isLt
  rw [h.end_eq] at hlt
  exact {
    not_halted := h.not_halted
    mem_eq := h.mem_eq
    active := by rw [State.answer_nbAct, State.stepCursor_nbAct, State.setVal_nbAct, h.active]
    base_eq := h.base_eq
    pair_eq := by
      rw [State.answer_nbPair, State.stepCursor_nbPair, State.setVal_nbHalf, State.setVal_nbPair, h.half_eq,
        apply_ite BitVec.toNat, BitVec.toNat_ofNat, h.pair_eq]
      obtain heven | hodd := Nat.mod_two_eq_zero_or_one j
      · rw [if_neg (by simp [heven])]
        omega
      · rw [if_pos (by simp [hodd])]
        omega
    half_eq := by
      rw [State.answer_nbHalf, State.stepCursor_nbHalf, State.setVal_nbHalf, h.half_eq, ← decide_not,
        decide_eq_decide]
      omega
    val_eq := by
      rw [State.answer_nbVal, State.stepCursor_nbVal, State.setVal_nbVal, h.val_eq, ← s.valueOffset_succ,
        BitVec.toNat_ofNat, Nat.mod_eq_of_lt (by omega)]
    end_eq := h.end_eq
    in_space := h.in_space }

/-- One step of the walk: a matching NBNXT answers OK with its value. -/
theorem State.WalkedTo.next (h : s.WalkedTo j u) (hj : j < s.cnt.toNat) {i : Instr}
    (hm : NextMatches i (s.codeAt j)) :
    ∃ v, execOk i u = some v ∧ v.val = s.valueAt i j ∧ s.WalkedTo (j + 1) v := by
  have hroom : u.nbVal.toNat + effWidth (s.codeAt j) ≤ u.nbEnd.toNat := by
    rw [h.val_eq, h.end_eq, ← s.valueOffset_succ]
    exact s.valueOffset_mono hj
  rw [← h.currentNibble_eq] at hm hroom
  have hbody := bodyOf_next_of_matches (h.streamCursorOk hj.le) h.active hm hroom
  rw [h.currentNibble_eq, h.base_eq, h.val_eq, h.mem_eq] at hbody
  exact ⟨_, execOk_of_bodyOf h.not_halted hbody, rfl, h.stepCursor hj _ _⟩

/-- The walk: matching NBNXT commands, as many as there are values left or fewer, answer OK with the values in order. -/
theorem State.WalkedTo.runValues {is : List Instr} (h : s.WalkedTo j u) (hlen : j + is.length ≤ s.cnt.toNat)
    (hm : ∀ k i, is[k]? = some i → NextMatches i (s.codeAt (j + k))) :
    ∃ v, Machine.runValues is u = some ((is.zipIdx j).map fun e => s.valueAt e.1 e.2, v) ∧
      s.WalkedTo (j + is.length) v := by
  induction is generalizing j u with
  | nil => exact ⟨u, rfl, h⟩
  | cons i is ih =>
    rw [List.length_cons] at hlen
    obtain ⟨w, hw, hval, hstep⟩ := h.next (by omega) (hm 0 i rfl)
    have hm' : ∀ k i, is[k]? = some i → NextMatches i (s.codeAt (j + 1 + k)) := fun k d hk => by
      rw [Nat.add_right_comm, Nat.add_assoc]
      exact hm (k + 1) d hk
    obtain ⟨v, hrun, hv⟩ := ih hstep (by omega) hm'
    refine ⟨v, ?_, ?_⟩
    · rw [Machine.runValues, hw, Option.bind_some, hrun, Option.map_some, hval, List.zipIdx_cons, List.map_cons]
    · rwa [List.length_cons, Nat.add_comm is.length, ← Nat.add_assoc]

/-- After the last value the stream cursor is terminal (R187). -/
theorem State.WalkedTo.terminal (h : s.WalkedTo s.cnt.toNat u) :
    u.nbVal = u.nbEnd ∧ ∀ i, isNext i = true → exec i u = .next (u.afterFault .endOfValues i) := by
  have hend : u.nbVal.toNat = u.nbEnd.toNat := h.val_eq.trans h.end_eq.symm
  exact ⟨BitVec.eq_of_toNat_eq hend, fun i hi =>
    exec_next_at_end hi h.not_halted (h.streamCursorOk le_rfl) h.active hend.ge⟩

end Walk

/-- Settles O42: NBNEW opens the walk, each matching NBNXT makes one step of it, and after N steps it is terminal. -/
theorem walkKeepsTheStreamsInStep : Obligations.WalkKeepsTheStreamsInStep := by
  intro s t is hs hexec ht hlen hm
  have hopen := walkedTo_zero_of_nbnew hs hexec ht
  have hmatch : ∀ k i, is[k]? = some i → NextMatches i (s.codeAt (0 + k)) := by
    intro k i hk
    rw [Nat.zero_add, State.codeAt]
    obtain hint | ⟨rfl, hc⟩ | ⟨rfl, hc⟩ := hm k i hk
    · exact .inl hint
    · exact .inr ⟨rfl, congrArg BitVec.toNat hc⟩
    · exact .inr ⟨rfl, congrArg BitVec.toNat hc⟩
  obtain ⟨u, hrun, hu⟩ := hopen.runValues (by omega) hmatch
  rw [Nat.zero_add] at hu
  refine ⟨_, u, hrun, by rw [List.length_map, List.length_zipIdx], ?_, hu.pair_eq, hu.half_eq,
    BitVec.eq_of_toNat_eq (hu.end_eq.trans hopen.end_eq.symm), hu.mem_eq, fun hall => ?_⟩
  · rw [hu.val_eq, State.valueOffset, scanTotal_eq_sum]
    rfl
  · rw [hall] at hu
    exact hu.terminal

/-! ### A record written by encode commands (R203) -/

theorem tagOf_nextOf {i : Instr} (hi : family i = .encoder) : tagOf (nextOf i) = tagOf (decoderOf i) := by
  cases i with
  | pkuU8 | pkuU16 | pkuU32 | pkuU64 | pksI32 | pksI64 | pkfF32 | pkfF64 | pkp => rfl
  | _ => cases hi

/-- The matching NBNXT is an integer or a float one as the matching decode command is. -/
theorem family_nextOf {i : Instr} (hi : family i = .encoder) :
    family (nextOf i) = .nextInteger ∧ family (decoderOf i) = .integerDecoder ∨
      family (nextOf i) = .nextFloat ∧ family (decoderOf i) = .floatDecoder := by
  cases i with
  | pkuU8 | pkuU16 | pkuU32 | pkuU64 | pksI32 | pksI64 | pkp => exact .inl ⟨rfl, rfl⟩
  | pkfF32 | pkfF64 => exact .inr ⟨rfl, rfl⟩
  | _ => cases hi

/-- PKF stores the pattern under the width of its type, and the pattern is the packed value (41_encoder.md R120,
43_decoder.md R166). -/
theorem encodeParts_float {i : Instr} (hi : family i = .encoder) (hd : family (decoderOf i) = .floatDecoder) {W : Nat}
    (hW : typeBytes (tagOf (decoderOf i)) = W) (x : Word) :
    encodeParts i x = (valueField W x, W, W) ∧ packedValue i x = BitVec.ofNat 64 (valueField W x) := by
  subst hW
  rw [valueField, BitVec.ofNat_toNat]
  cases i with
  | pkfF32 => exact ⟨rfl, rfl⟩
  | pkfF64 =>
    refine ⟨rfl, ?_⟩
    change x = (x.setWidth 64).setWidth 64
    rw [BitVec.setWidth_eq, BitVec.setWidth_eq]
  | pkuU8 | pkuU16 | pkuU32 | pkuU64 | pksI32 | pksI64 | pkp => cases hd
  | _ => cases hi

/-- The parts an encode command gives for `x`, stored under their code at `a`, are the packed value for the matching
NBNXT (43_decoder.md R166). -/
theorem nextOf_reads_encodeParts {i : Instr} (hi : family i = .encoder) {x : Word} {u n c : Nat}
    (hparts : encodeParts i x = (u, n, c)) {m : Memory} {a : Nat} (hbytes : bytesValue m a n = u) :
    effWidth (codeField (BitVec.ofNat 64 c)) = n ∧ NextMatches (nextOf i) (codeField (BitVec.ofNat 64 c)) ∧
      decodedValue (tagOf (nextOf i)) m a (codeField (BitVec.ofNat 64 c)) = packedValue i x := by
  obtain ⟨hpos, hlt, hn⟩ := encodeParts_intWidth hi hparts
  have hcode : (codeField (BitVec.ofNat 64 c)).toNat = c := by
    rw [codeField_toNat, BitVec.toNat_ofNat]
    omega
  have hwidth : effWidth (codeField (BitVec.ofNat 64 c)) = n := by
    rw [effWidth_eq_intWidth (by omega), hcode, hn]
  refine ⟨hwidth, ?_⟩
  obtain ⟨hnext, hdec⟩ | ⟨hnext, hdec⟩ := family_nextOf hi
  · have ht := (bodyOf_nextInteger hnext).2
    refine ⟨.inl ⟨hnext, fun h => ?_⟩, ?_⟩
    · rw [h] at hcode
      exact absurd hpos (hcode ▸ by decide)
    · rw [decodedValue_integer ht, hwidth, hbytes, hcode, tagOf_nextOf hi]
      exact castTo_encodeParts hi hdec hparts
  · have ht := (bodyOf_nextFloat hnext).2
    obtain ⟨hparts', hval⟩ := encodeParts_float hi hdec (congrArg typeBytes (tagOf_nextOf hi)).symm x
    cases hparts.symm.trans hparts'
    refine ⟨.inr ⟨hnext, hcode⟩, ?_⟩
    rw [decodedValue_float ht, hwidth, hbytes, hval]

/-- What packing leaves as it was: the window, and the bytes before the cursor. -/
structure State.PackedFrom (s t : State) : Prop where
  not_halted : t.halted = false
  cbase_eq : t.cbase = s.cbase
  clen_eq : t.clen = s.clen
  wellFormed : s.CursorWellFormed → t.CursorWellFormed
  cpos_le : s.cpos.toNat ≤ t.cpos.toNat
  before_eq : ∀ a < s.cursorAddr, t.mem.read a = s.mem.read a

theorem State.PackedFrom.refl {s : State} (hs : s.halted = false) : s.PackedFrom s :=
  ⟨hs, rfl, rfl, id, le_rfl, fun _ _ => rfl⟩

theorem State.PackedFrom.trans {s t u : State} (h : s.PackedFrom t) (h' : t.PackedFrom u) : s.PackedFrom u where
  not_halted := h'.not_halted
  cbase_eq := h'.cbase_eq.trans h.cbase_eq
  clen_eq := h'.clen_eq.trans h.clen_eq
  wellFormed := h'.wellFormed ∘ h.wellFormed
  cpos_le := h.cpos_le.trans h'.cpos_le
  before_eq := fun a ha => by
    have hcpos := h.cpos_le
    have hcbase := congrArg BitVec.toNat h.cbase_eq
    have ha' : a < t.cursorAddr := by
      unfold State.cursorAddr at ha ⊢
      omega
    exact (h'.before_eq a ha').trans (h.before_eq a ha)

/-- One value packed: the bytes of its quantity at the cursor, the cursor past them (41_encoder.md R110). -/
theorem pack_one {i : Instr} (hi : family i = .encoder) {x : Word} {s t : State} {u n c : Nat} (hs : s.halted = false)
    (h : execOk i (s.setX 0 x) = some t) (hparts : encodeParts i x = (u, n, c)) :
    s.PackedFrom t ∧ t.cpos.toNat = s.cpos.toNat + n ∧ t.code = BitVec.ofNat 64 c ∧
      t.mem = s.mem.writeLE s.cursorAddr n u := by
  obtain ⟨hexec, hreply⟩ := exec_of_execOk h
  obtain ⟨hcur, hroom, rfl⟩ := exec_encoder_ok (s := s.setX 0 x) hi hs hexec hreply hparts
  change s.cpos.toNat + n ≤ s.clen.toNat at hroom
  obtain ⟨-, hspace⟩ := hcur
  have hlen := s.clen.isLt
  have hcpos : (BitVec.ofNat 64 (s.cpos.toNat + n)).toNat = s.cpos.toNat + n := by
    rw [BitVec.toNat_ofNat, Nat.mod_eq_of_lt (by omega)]
  refine ⟨⟨hs, rfl, rfl, fun _ => ⟨?_, hspace⟩, ?_, fun a ha => ?_⟩, hcpos, rfl, rfl⟩
  · change (BitVec.ofNat 64 (s.cpos.toNat + n)).toNat ≤ s.clen.toNat
    rw [hcpos]
    exact hroom
  · change s.cpos.toNat ≤ (BitVec.ofNat 64 (s.cpos.toNat + n)).toNat
    omega
  · change (s.mem.writeLE s.cursorAddr n u).read a = _
    rw [Memory.read_writeLE, if_neg (by omega)]

theorem packAll_packedFrom (l : List (Instr × Word)) {s t : State} {codes : List Nibble} (hs : s.halted = false)
    (henc : ∀ e ∈ l, family e.1 = .encoder) (h : packAll l s = some (codes, t)) : s.PackedFrom t := by
  induction l generalizing s codes with
  | nil =>
    cases h
    exact .refl hs
  | cons e l ih =>
    obtain ⟨hi, hl⟩ := List.forall_mem_cons.mp henc
    obtain ⟨u, rest, hu, hrest, rfl⟩ := packAll_cons h
    have hone := (pack_one hi hs hu rfl).1
    exact hone.trans (ih hone.not_halted hl hrest)

/-- Value `j` of the record at the cursor of `s` is the operand `x` as the encode command `i` packs it: the matching
NBNXT returns its packed value. -/
def State.HoldsAt (s : State) (j : Nat) (i : Instr) (x : Word) : Prop :=
  NextMatches (nextOf i) (s.codeAt j) ∧ s.valueAt (nextOf i) j = packedValue i x

/-- The bytes and the code of one packed value at the place of value `k` of the record at the cursor of `r`. -/
theorem holdsAt_of_encodeParts {i : Instr} (hi : family i = .encoder) {x : Word} {r : State} {m : Memory}
    {u n c a k : Nat} (hparts : encodeParts i x = (u, n, c)) (hplace : r.cbase.toNat + r.valueOffset k = a)
    (hcode : r.codeAt k = codeField (BitVec.ofNat 64 c)) (hmem : (m.writeLE a n u).AgreeOn r.mem a (a + n)) :
    r.HoldsAt k i x ∧ r.valueOffset (k + 1) = r.valueOffset k + n := by
  have hbytes : bytesValue r.mem a n = u := by
    rw [← readLE_eq_bytesValue, Memory.readLE_congr _ _ _ _ hmem, readLE_eq_bytesValue]
    exact bytesValue_writeLE _ _ (encodeParts_lt hi hparts)
  obtain ⟨hwidth, hmatch, hval⟩ := nextOf_reads_encodeParts hi hparts hbytes
  rw [← hcode] at hwidth hmatch hval
  exact ⟨⟨hmatch, by rw [State.valueAt, hplace, hval]⟩, by rw [r.valueOffset_succ, hwidth]⟩

/-- Packing from the place of value `k` of the record at the cursor of `r` on, its codes stored there from code `k` on
and the value stream left alone: the record of `r` holds the packed values from value `k` on. -/
theorem packAll_holdsAt (l : List (Instr × Word)) {r s t : State} {codes : List Nibble} {k : Nat}
    (hs : s.halted = false) (henc : ∀ e ∈ l, family e.1 = .encoder) (h : packAll l s = some (codes, t))
    (hplace : r.cbase.toNat + r.valueOffset k = s.cursorAddr)
    (hcodes : ∀ j c, codes[j]? = some c → r.codeAt (k + j) = c)
    (hmem : t.mem.AgreeOn r.mem s.cursorAddr (s.cbase.toNat + t.cpos.toNat)) :
    ∀ j e, l[j]? = some e → r.HoldsAt (k + j) e.1 e.2 := by
  induction l generalizing s codes k with
  | nil => simp
  | cons e l ih =>
    obtain ⟨i, x⟩ := e
    obtain ⟨hi, hl⟩ := List.forall_mem_cons.mp henc
    obtain ⟨v, rest, hv, hrest, rfl⟩ := packAll_cons h
    obtain ⟨u, n, c, hparts, -⟩ := encodeParts_code hi x
    obtain ⟨hone, hcpos, hcode, hvmem⟩ := pack_one hi hs hv hparts
    have hlater := packAll_packedFrom l hone.not_halted hl hrest
    have hle := hlater.cpos_le
    have haddr : v.cursorAddr = s.cursorAddr + n := by
      rw [State.cursorAddr, hone.cbase_eq, hcpos, ← Nat.add_assoc, ← State.cursorAddr]
    have hbytes : (s.mem.writeLE s.cursorAddr n u).AgreeOn r.mem s.cursorAddr (s.cursorAddr + n) := by
      intro a hlow hhigh
      have hin : a < s.cbase.toNat + t.cpos.toNat := by
        unfold State.cursorAddr at hhigh
        omega
      rw [hmem a hlow hin, hlater.before_eq a (haddr ▸ hhigh), hvmem]
    obtain ⟨hfirst, hnext⟩ :=
      holdsAt_of_encodeParts hi hparts hplace ((hcodes 0 _ rfl).trans (congrArg codeField hcode)) hbytes
    have hplace' : r.cbase.toNat + r.valueOffset (k + 1) = v.cursorAddr := by omega
    have hmem' : t.mem.AgreeOn r.mem v.cursorAddr (v.cbase.toNat + t.cpos.toNat) :=
      hmem.mono (haddr ▸ Nat.le_add_right ..) (by rw [hone.cbase_eq])
    have hcodes' : ∀ j d, rest[j]? = some d → r.codeAt (k + 1 + j) = d := fun j d hj => by
      rw [Nat.add_right_comm, Nat.add_assoc]
      exact hcodes (j + 1) d hj
    intro j e hj
    cases j with
    | zero =>
      cases hj
      exact hfirst
    | succ j =>
      rw [← Nat.add_assoc, Nat.add_right_comm]
      exact ih hone.not_halted hl hrest hplace' hcodes' hmem' j e hj

/-- Packing from the first value of the record at the cursor of `r` on: the record ends where packing did, and holds
the packed values. -/
theorem packAll_record {l : List (Instr × Word)} {r s t : State} {codes : List Nibble} (hs : s.halted = false)
    (henc : ∀ e ∈ l, family e.1 = .encoder) (h : packAll l s = some (codes, t)) (hbase : r.cbase = s.cbase)
    (hfirst : r.valueOffset 0 = s.cpos.toNat) (hcount : r.cnt.toNat = l.length)
    (hcodes : ∀ j c, codes[j]? = some c → r.codeAt j = c)
    (hmem : t.mem.AgreeOn r.mem s.cursorAddr (s.cbase.toNat + t.cpos.toNat)) :
    r.valueOffset r.cnt.toNat = t.cpos.toNat ∧ ∀ j e, l[j]? = some e → r.HoldsAt j e.1 e.2 := by
  refine ⟨?_, fun j e hj => ?_⟩
  · obtain ⟨-, hscan⟩ := scanAgreesWithTheEncoder l s t codes _ _ hs henc h hcodes
    rw [← hscan, ← hfirst, hcount]
    rfl
  · have hplace : r.cbase.toNat + r.valueOffset 0 = s.cursorAddr := by rw [hbase, hfirst, State.cursorAddr]
    have hcodes' : ∀ j c, codes[j]? = some c → r.codeAt (0 + j) = c := fun j c hj => by
      rw [Nat.zero_add]
      exact hcodes j c hj
    rw [← Nat.zero_add j]
    exact packAll_holdsAt l hs henc h hplace hcodes' hmem j e hj

/-- NBNEW answers OK where the record fits the window (R183). -/
theorem execOk_nbnew {s : State} (hs : s.halted = false) (hc : s.CursorWellFormed)
    (hcount : s.cnt.toNat ≤ Config.nmax) (hroom : s.valueOffset s.cnt.toNat ≤ s.clen.toNat) :
    ∃ w, execOk .nbnew s = some w := by
  have hbody : bodyOf .nbnew s = _ := construct_eq s
  unfold State.valueOffset at hroom
  rw [if_neg (not_not.mpr hc), if_neg (Nat.not_lt.mpr hcount), if_pos hroom] at hbody
  exact ⟨_, execOk_of_bodyOf hs hbody⟩

/-- The walk over a record that holds a list of packed values returns them in order. -/
theorem State.WalkedTo.runValues_of_holdsAt {r w : State} {l : List (Instr × Word)} (hopen : r.WalkedTo 0 w)
    (hcount : r.cnt.toNat = l.length) (hholds : ∀ j e, l[j]? = some e → r.HoldsAt j e.1 e.2) :
    ∃ x, Machine.runValues (l.map fun e => nextOf e.1) w = some (l.map fun e => packedValue e.1 e.2, x) ∧
      r.WalkedTo r.cnt.toNat x := by
  have hlen : 0 + (l.map fun e => nextOf e.1).length = r.cnt.toNat := by rw [List.length_map, Nat.zero_add, hcount]
  have hmatch : ∀ j i, (l.map fun e => nextOf e.1)[j]? = some i → NextMatches i (r.codeAt (0 + j)) := by
    intro j i hj
    rw [List.getElem?_map] at hj
    obtain ⟨e, he, rfl⟩ := Option.map_eq_some_iff.mp hj
    rw [Nat.zero_add]
    exact (hholds j e he).1
  have hvalues : ((l.map fun e => nextOf e.1).zipIdx.map fun e => r.valueAt e.1 e.2) =
      l.map fun e => packedValue e.1 e.2 := by
    refine List.ext_getElem? fun j => ?_
    cases hj : l[j]? with
    | none => simp [hj]
    | some e => simp [hj, (hholds j e hj).2]
  obtain ⟨x, hrun, hx⟩ := hopen.runValues hlen.le hmatch
  rw [hlen] at hx
  exact ⟨x, hvalues ▸ hrun, hx⟩

/-- `t` set up by the host for NBNEW: the memory with the codes in it, CPOS at the record's offset `S`, the count
`N`. -/
def State.recordAt (t : State) (m : Memory) (S N : Nat) : State :=
  { t with mem := m, cpos := BitVec.ofNat 64 S, cnt := BitVec.ofNat 64 N }

theorem State.recordAt_cpos (t : State) (m : Memory) {S : Nat} (N : Nat) (h : S < 2 ^ 64) :
    (t.recordAt m S N).cpos.toNat = S := (BitVec.toNat_ofNat ..).trans (Nat.mod_eq_of_lt h)

theorem State.recordAt_cnt (t : State) (m : Memory) (S : Nat) {N : Nat} (h : N < 2 ^ 64) :
    (t.recordAt m S N).cnt.toNat = N := (BitVec.toNat_ofNat ..).trans (Nat.mod_eq_of_lt h)

/-- Settles O44: the record that NBNEW opens begins where packing began and ends where it ended, it holds the packed
values, and the walk over it returns what it holds. -/
theorem streamCursorReproducesTheSequence : Obligations.StreamCursorReproducesTheSequence := by
  intro l s t codes m S hs hc hcount henc hS hpack hcodes hmem
  have hpacked := packAll_packedFrom l hs henc hpack
  obtain ⟨hcur, hspace⟩ := hpacked.wellFormed hc
  have hle := hpacked.cpos_le
  have hscpos := s.cpos.isLt
  let r := t.recordAt m S l.length
  have hnot : r.halted = false := hpacked.not_halted
  have hcpos : r.cpos.toNat = S := t.recordAt_cpos m l.length (by omega)
  have hcnt : r.cnt.toNat = l.length := t.recordAt_cnt m S (by omega)
  have hbase : r.cbase = s.cbase := hpacked.cbase_eq
  have hfirst : r.valueOffset 0 = s.cpos.toNat := by rw [r.valueOffset_zero, hcpos, hcnt, hS, ceilHalf]
  have hcodes' : ∀ j c, codes[j]? = some c → r.codeAt j = c := by
    unfold State.codeAt State.cursorAddr
    rw [hbase, hcpos]
    exact hcodes
  obtain ⟨hend, hholds⟩ := packAll_record hs henc hpack hbase hfirst hcnt hcodes' hmem
  have hwindow : r.CursorWellFormed := ⟨by rw [hcpos]; exact le_trans (by omega) hcur, hspace⟩
  obtain ⟨w, hw⟩ := execOk_nbnew hnot hwindow (hcnt.trans_le hcount) (hend.trans_le hcur)
  obtain ⟨hexec, hreply⟩ := exec_of_execOk hw
  have hopen := walkedTo_zero_of_nbnew hnot hexec hreply
  obtain ⟨x, hrun, hx⟩ := hopen.runValues_of_holdsAt hcnt hholds
  obtain ⟨hlast, hterminal⟩ := hx.terminal
  exact ⟨w, x, hw, hrun, hlast, BitVec.eq_of_toNat_eq (hx.end_eq.trans hend), hterminal⟩

end Sys2Proof.Machine

/-! ## Faults: which command raises what, fault entry, halt (60_exceptions.md R210 to R217)

A command answers unless its body stops, so what the bodies can abort with comes first: the causes of their rows of R213
and, in a state with the invariant of R34, no stop. Then one state for each cause, in which every command that lists the
cause raises it. -/

namespace Sys2Proof.Machine

/-! ### What a part of a command can abort with -/

/-- Where `x` does not run to its end, the abort satisfies `P`. -/
def AbortsOnly {α : Type} (P : Abort → Prop) (x : Except Abort α) : Prop := ∀ e, x = .error e → P e

section AbortsOnly
variable {α β : Type} {P : Abort → Prop}

@[simp] theorem abortsOnly_ok (a : α) : AbortsOnly P (.ok a) := fun _ h => by cases h

@[simp] theorem abortsOnly_error {e : Abort} : AbortsOnly P (.error e : Except Abort α) ↔ P e :=
  ⟨fun h => h e rfl, fun h _ he => by cases he; exact h⟩

theorem AbortsOnly.bind {x : Except Abort α} {f : α → Except Abort β} (hx : AbortsOnly P x)
    (hf : ∀ a, AbortsOnly P (f a)) : AbortsOnly P (x >>= f) := by
  cases x with
  | ok a => exact hf a
  | error e => exact abortsOnly_error.2 (abortsOnly_error.1 hx)

theorem raiseIf_abortsOnly (p : Bool) {c : Cause} (h : P (.raise c)) : AbortsOnly P (raiseIf p c) := by
  cases p with
  | false => exact abortsOnly_ok ()
  | true => exact abortsOnly_error.2 h

end AbortsOnly

/-! ### The causes of a body are in its row (R213) -/

/-- If the abort raises a cause, the cause is one of `cs`. -/
def Abort.CauseIn (cs : List Cause) (e : Abort) : Prop := ∀ c, e = .raise c → c ∈ cs

@[simp] theorem Abort.causeIn_raise {cs : List Cause} {c : Cause} : Abort.CauseIn cs (.raise c) ↔ c ∈ cs :=
  ⟨fun h => h c rfl, fun h _ he => by cases he; exact h⟩

@[simp] theorem Abort.causeIn_stop (cs : List Cause) (f : Fault) : Abort.CauseIn cs (.stop f) :=
  fun _ he => by cases he

/-- `x` raises no cause but those of `cs`. -/
abbrev RaisesOnly {α : Type} (cs : List Cause) (x : Except Abort α) : Prop := AbortsOnly (Abort.CauseIn cs) x

section RaisesOnly
variable {cs : List Cause}

theorem raiseIf_raisesOnly (p : Bool) {c : Cause} (h : c ∈ cs) : RaisesOnly cs (raiseIf p c) :=
  raiseIf_abortsOnly p (Abort.causeIn_raise.2 h)

/-- An access to memory can stop the model, but raises nothing. -/
theorem load_raisesOnly {m : Memory} {a n : Nat} : RaisesOnly cs (load m a n) := by
  refine AbortsOnly.bind ?_ fun _ => abortsOnly_ok _
  obtain ⟨-, h⟩ | ⟨-, h⟩ := reach_cases a n <;> simp [h]

theorem encoder_raisesOnly {i : Instr} (hi : family i = .encoder) (s : State) :
    RaisesOnly [.badCursor, .overrun] (bodyOf i s) := by
  rw [bodyOf_encoder hi, encodeAs_eq]
  split_ifs <;> simp

theorem scanArray_raisesOnly (s : State) : RaisesOnly [.badCursor, .overrun, .badCount] (scanArray s) := by
  rw [scanArray_eq]
  split_ifs <;> simp

theorem scanSize_raisesOnly (s : State) : RaisesOnly [.badCursor, .overrun, .badCount] (scanSize s) :=
  (scanArray_raisesOnly s).bind fun _ => abortsOnly_ok _

theorem construct_raisesOnly (s : State) : RaisesOnly [.badCursor, .overrun, .badCount] (construct s) :=
  (scanArray_raisesOnly s).bind fun _ => (raiseIf_raisesOnly _ (by decide)).bind fun _ => abortsOnly_ok _

theorem intDecode_raisesOnly (hover : .overrun ∈ cs) (hcode : .reservedCode ∈ cs) {m : Memory} {B L p : Nat}
    {c : Nibble} : RaisesOnly cs (intDecode m B L p c) :=
  (raiseIf_raisesOnly _ hcode).bind fun _ => (raiseIf_raisesOnly _ hover).bind fun _ =>
    load_raisesOnly.bind fun _ => abortsOnly_ok _

theorem fltDecode_raisesOnly (hover : .overrun ∈ cs) {m : Memory} {B L p : Nat} {c : Nibble} {W : Nat} :
    RaisesOnly cs (fltDecode m B L p c W) := by
  refine (raiseIf_raisesOnly _ hover).bind fun _ => ?_
  split_ifs
  · exact load_raisesOnly.bind fun _ => abortsOnly_ok _
  · exact abortsOnly_ok _

/-- A decode raises OVERRUN, and under an integer or pointer type RESERVED_CODE too (R211). -/
theorem decodeAs_raisesOnly {t : TypeTag} (hover : .overrun ∈ cs) (hcode : typeClass t ≠ .float → .reservedCode ∈ cs)
    {m : Memory} {B L p : Nat} {c : Nibble} : RaisesOnly cs (decodeAs t m B L p c) := by
  by_cases ht : typeClass t = .float
  · rw [decodeAs, ht]
    exact fltDecode_raisesOnly hover
  · rw [decodeAs_int ht]
    exact (intDecode_raisesOnly hover (hcode ht)).bind fun _ => abortsOnly_ok _

theorem unpack_raisesOnly {t : TypeTag} (hcur : .badCursor ∈ cs) (hover : .overrun ∈ cs)
    (hcode : typeClass t ≠ .float → .reservedCode ∈ cs) (s : State) : RaisesOnly cs (unpack t s) :=
  (raiseIf_raisesOnly _ hcur).bind fun _ => (decodeAs_raisesOnly hover hcode).bind fun _ => abortsOnly_ok _

theorem getNext_raisesOnly {t : TypeTag} (hact : .nbInactive ∈ cs) (hend : .endOfValues ∈ cs) (hover : .overrun ∈ cs)
    (hcode : typeClass t ≠ .float → .reservedCode ∈ cs) (s : State) : RaisesOnly cs (getNext t s) :=
  (raiseIf_raisesOnly _ hact).bind fun _ => (raiseIf_raisesOnly _ hend).bind fun _ =>
    (load_raisesOnly.bind fun _ => abortsOnly_ok _).bind fun _ =>
      (decodeAs_raisesOnly hover hcode).bind fun _ => abortsOnly_ok _

theorem endOfArguments_raisesOnly (s : State) : RaisesOnly [.nbInactive] (endOfArguments s) :=
  (raiseIf_raisesOnly _ (by decide)).bind fun _ => abortsOnly_ok _

end RaisesOnly

theorem bodyOf_raisesOnly : ∀ (i : Instr) (s : State), RaisesOnly (mayRaise i) (bodyOf i s)
  | .npmk, _ | .npfst, _ | .npsnd, _ => abortsOnly_ok _
  | .pkuU8, s | .pkuU16, s | .pkuU32, s | .pkuU64, s | .pksI32, s | .pksI64, s | .pkfF32, s | .pkfF64, s | .pkp, s =>
    encoder_raisesOnly rfl s
  | .scan, s => scanSize_raisesOnly s
  | .upiU8, s | .upiU16, s | .upiU32, s | .upiU64, s | .upiI8, s | .upiI16, s | .upiI32, s | .upiI64, s | .upp, s
  | .upfF32, s | .upfF64, s => unpack_raisesOnly (by decide) (by decide) (by decide) s
  | .nbnew, s => construct_raisesOnly s
  | .nbnxtU8, s | .nbnxtU16, s | .nbnxtU32, s | .nbnxtU64, s | .nbnxtI8, s | .nbnxtI16, s | .nbnxtI32, s
  | .nbnxtI64, s | .nbnxtPtr, s | .nbnxtF32, s | .nbnxtF64, s =>
    getNext_raisesOnly (by decide) (by decide) (by decide) (by decide) s
  | .nbend, s => endOfArguments_raisesOnly s

theorem causeCode_injective : Function.Injective causeCode := by
  intro c d h
  cases c <;> cases d <;> first | rfl | exact absurd h (by decide)

/-- Settles O18: OK is no cause code, and a fault that was taken was raised by the body. -/
theorem commandRaisesOnlyItsCauses : Obligations.CommandRaisesOnlyItsCauses := by
  intro i s t c hs h ht
  obtain ⟨hh, -⟩ | ⟨-, u, -, rfl⟩ | ⟨-, d, hb, rfl⟩ := exec_next h
  · exact absurd (hs.symm.trans hh) (by decide)
  · exact absurd (Reply.status.inj ht).symm (causeCode_ne_zero c)
  · obtain rfl := causeCode_injective (Reply.status.inj ht)
    exact bodyOf_raisesOnly i s _ hb d rfl

/-! ### No body stops in a state with the invariant (20_memory.md R57) -/

/-- The abort raises a cause; it is not a stop of the model. -/
def Abort.IsRaise (e : Abort) : Prop := ∃ c, e = .raise c

@[simp] theorem Abort.isRaise_raise (c : Cause) : Abort.IsRaise (.raise c) := ⟨c, rfl⟩

/-- `x` does not stop the model. -/
abbrev NeverStops {α : Type} (x : Except Abort α) : Prop := AbortsOnly Abort.IsRaise x

theorem encoder_neverStops {i : Instr} (hi : family i = .encoder) (s : State) : NeverStops (bodyOf i s) := by
  rw [bodyOf_encoder hi, encodeAs_eq]
  split_ifs <;> simp

theorem scanSize_neverStops (s : State) : NeverStops (scanSize s) := by
  rw [scanSize_eq]
  split_ifs <;> simp

theorem construct_neverStops (s : State) : NeverStops (construct s) := by
  rw [construct_eq]
  split_ifs <;> simp

/-- A decode whose limit is inside the address space reads inside it. -/
theorem decodeAs_neverStops (t : TypeTag) (m : Memory) {B L : Nat} (p : Nat) (c : Nibble) (h : B + L ≤ 2 ^ 64) :
    NeverStops (decodeAs t m B L p c) := by
  obtain ⟨-, he⟩ | he | ⟨r, k, he, -⟩ := decodeAs_cases t m p c h <;> rw [he] <;> simp

theorem unpack_neverStops (t : TypeTag) (s : State) : NeverStops (unpack t s) := by
  rw [unpack_eq]
  split_ifs with hcur
  · exact (decodeAs_neverStops t _ _ _ hcur.2).bind fun _ => abortsOnly_ok _
  · simp

/-- NBNXT reads the pair byte and the value inside its record, which R34 keeps in the address space. -/
theorem getNext_neverStops (t : TypeTag) {s : State} (h : s.StreamCursorOk) : NeverStops (getNext t s) := by
  rw [getNext_eq t h]
  split_ifs with hact hend
  · simp
  · simp
  all_goals
    have hbase := (h (by simpa using hact)).2.2
    exact (decodeAs_neverStops t _ _ _ hbase).bind fun _ => abortsOnly_ok _

theorem endOfArguments_neverStops (s : State) : NeverStops (endOfArguments s) := by
  rw [endOfArguments_eq]
  split_ifs <;> simp

theorem bodyOf_neverStops : ∀ (i : Instr) {s : State}, s.StreamCursorOk → NeverStops (bodyOf i s)
  | .npmk, _, _ | .npfst, _, _ | .npsnd, _, _ => abortsOnly_ok _
  | .pkuU8, s, _ | .pkuU16, s, _ | .pkuU32, s, _ | .pkuU64, s, _ | .pksI32, s, _ | .pksI64, s, _ | .pkfF32, s, _
  | .pkfF64, s, _ | .pkp, s, _ => encoder_neverStops rfl s
  | .scan, s, _ => scanSize_neverStops s
  | .upiU8, s, _ | .upiU16, s, _ | .upiU32, s, _ | .upiU64, s, _ | .upiI8, s, _ | .upiI16, s, _ | .upiI32, s, _
  | .upiI64, s, _ | .upp, s, _ | .upfF32, s, _ | .upfF64, s, _ => unpack_neverStops _ s
  | .nbnew, s, _ => construct_neverStops s
  | .nbnxtU8, _, h | .nbnxtU16, _, h | .nbnxtU32, _, h | .nbnxtU64, _, h | .nbnxtI8, _, h | .nbnxtI16, _, h
  | .nbnxtI32, _, h | .nbnxtI64, _, h | .nbnxtPtr, _, h | .nbnxtF32, _, h | .nbnxtF64, _, h => getNext_neverStops _ h
  | .nbend, s, _ => endOfArguments_neverStops s

/-! ### Every command and every step answers (R212) -/

/-- The response statuses of R212: OK, a cause code, HALTED. -/
def Reply.IsResponse (r : Reply) : Prop := r = .status 0 ∨ (∃ c, r = .status (causeCode c)) ∨ r = .status 0xF

/-- A command stops the model only where its body does. -/
theorem command_answers {cmd : Byte} {body : State → Except Abort State} {s : State} (h : NeverStops (body s)) :
    ∃ t, command cmd body s = .next t ∧ t.reply.IsResponse := by
  cases hs : s.halted with
  | true => exact ⟨_, command_halted hs, .inr (.inr rfl)⟩
  | false =>
    cases hb : body s with
    | ok u => exact ⟨_, command_ok hs hb, .inl rfl⟩
    | error e =>
      obtain ⟨c, rfl⟩ := h e hb
      exact ⟨_, command_raise hs hb, .inr (.inl ⟨c, rfl⟩)⟩

theorem exec_answers (i : Instr) {s : State} (h : s.StreamCursorOk) :
    ∃ t, exec i s = .next t ∧ t.reply.IsResponse := by
  rw [exec_eq]
  exact command_answers (bodyOf_neverStops i h)

theorem hostIssue_answers (cmd : Byte) {s : State} (h : s.StreamCursorOk) :
    ∃ t, hostIssue cmd s = .next t ∧ t.reply.IsResponse := by
  unfold hostIssue
  split
  · exact exec_answers _ h
  · exact command_answers (by simp)

/-- Of the moves of the host only Issue can stop the model (10_state.md R21). -/
theorem hostMove_answers (mv : HostMove) {s : State} (h : s.StreamCursorOk) : ∃ t, hostMove mv s = .next t :=
  match mv with
  | .issue cmd => (hostIssue_answers cmd h).imp fun _ ht => ht.1
  | .regWrite .. | .regRead _ | .csrRead _ | .memRead _ | .memWrite .. | .reset => ⟨_, rfl⟩

theorem step_answers {s : State} (h : s.StreamCursorOk) : ∃ t, step s = .next t := by
  cases hscript : s.script with
  | nil => exact ⟨s, step_nil hscript⟩
  | cons mv rest =>
    rw [step_cons hscript]
    exact hostMove_answers mv (s := { s with script := rest }) h

/-- Settles O14: of the invariant only R34 is needed, and only by NBNXT. -/
theorem coreAlwaysAnswers : Obligations.CoreAlwaysAnswers :=
  ⟨fun _ hs => step_answers hs.stream_cursor, fun i _ hs => exec_answers i hs.stream_cursor⟩

/-! ### Halt and fault entry (R214, R215) -/

/-- On a halted CORE it makes no difference what the byte decodes to. -/
theorem hostIssue_halted (cmd : Byte) {s : State} (hs : s.halted = true) :
    hostIssue cmd s = .next (s.answer (.status statusHalted)) := by
  unfold hostIssue
  split
  · exact exec_halted hs
  · exact command_halted hs

/-- Settles O5: the halt test is the first thing in both branches of Issue. -/
theorem haltedIssueChangesNothing : Obligations.HaltedIssueChangesNothing := by
  refine ⟨fun s cmd rest hscript hs => ?_, fun i s hs => exec_halted hs⟩
  rw [step_cons hscript]
  exact hostIssue_halted cmd (s := { s with script := rest }) hs

/-- Settles O16: a body that completes leaves FSTAT, and one that raises is thrown away but for fault entry. -/
theorem faultEntryIsPrecise : Obligations.FaultEntryIsPrecise := by
  refine ⟨fun s c cmd => ⟨s.takeFault_halted c cmd, s.takeFault_fstatCause c cmd, s.takeFault_fstatCmd c cmd, rfl⟩,
    fun i s t hs h => ?_⟩
  obtain ⟨hh, -⟩ | ⟨-, u, hb, rfl⟩ | ⟨-, c, -, rfl⟩ := exec_next h
  · exact absurd (hs.symm.trans hh) (by decide)
  · exact .inl ⟨rfl, (bodyOf_effect hb).fstat_eq, exec_ok_not_halted hs h rfl⟩
  · exact .inr ⟨c, s.takeFault_encode c i, s.takeFault_halted .., s.takeFault_fstatCause .., s.takeFault_fstatCmd .., rfl⟩

/-- Settles O15: the codes of R211, row by row. -/
theorem causeCodesAreAsTabled : Obligations.CauseCodesAreAsTabled := ⟨rfl, rfl, rfl, rfl, rfl, rfl, rfl⟩

/-! ### A state for each cause (R211, R213) -/

/-- A state in which every command that lists the cause in its row of R213 raises it. For OVERRUN the window is empty and
the codes and the count ask for a byte at least, and the record of the stream cursor is one byte short of the two that its
current code takes. No command lists ILLEGAL_CMD. -/
def Cause.witness : Cause → State
  | .illegalCmd | .nbInactive => State.reset
  | .badCursor => { State.reset with cpos := 1 }
  | .overrun => { State.reset with code := 1, cnt := 1, nbCtl := nbCtlWord true false, nbEnd := 1, mem := [(0, 2)] }
  | .badCount => { State.reset with cnt := 2 ^ 28 }
  | .reservedCode => { State.reset with nbCtl := nbCtlWord true false, nbEnd := 1 }
  | .endOfValues => { State.reset with nbCtl := nbCtlWord true false }

theorem Cause.witness_inv (c : Cause) : c.witness.Inv := by
  cases c <;> exact ⟨by decide, by decide, by decide, by decide⟩

theorem Cause.witness_not_halted (c : Cause) : c.witness.halted = false := by cases c <;> rfl

/-- The body raises each of `cs` in the witness of that cause. -/
def RaisesEach (cs : List Cause) (body : State → Except Abort State) : Prop :=
  ∀ c ∈ cs, body c.witness = .error (.raise c)

theorem raisesEach_nil (body : State → Except Abort State) : RaisesEach [] body := fun _ h => by cases h

/-- An encode command stores at least one byte, and the window is empty. -/
theorem encoder_raisesEach {i : Instr} (hi : family i = .encoder) : RaisesEach [.badCursor, .overrun] (bodyOf i) := by
  intro c hc
  obtain ⟨u, n, d, hparts, hn, -⟩ := encodeParts_code hi c.witness.val
  rw [bodyOf_encoder hi, encodeAs_eq, hparts]
  fin_cases hc
  · exact if_pos (by decide)
  · have hroom : ¬ 0 + n ≤ 0 := by omega
    exact (if_neg (by decide)).trans (if_neg hroom)

/-- The checks that SCAN and NBNEW share, in the witnesses of their three causes. -/
theorem scanArray_witness {c : Cause} (hc : c ∈ [Cause.badCursor, .overrun, .badCount]) :
    scanArray c.witness = .error (.raise c) := by
  rw [scanArray_eq]
  fin_cases hc
  · exact if_pos (by decide)
  · exact (if_neg (by decide)).trans ((if_neg (by decide)).trans (if_neg (by decide)))
  · exact (if_neg (by decide)).trans (if_pos (by decide))

theorem scanSize_raisesEach : RaisesEach [.badCursor, .overrun, .badCount] scanSize := by
  intro c hc
  rw [scanSize, scanArray_witness hc, bind_error]

theorem construct_raisesEach : RaisesEach [.badCursor, .overrun, .badCount] construct := by
  intro c hc
  rw [construct, scanArray_witness hc, bind_error]

theorem unpack_integer_raisesEach {t : TypeTag} (ht : typeClass t ≠ .float) :
    RaisesEach [.badCursor, .overrun, .reservedCode] (unpack t) := by
  intro c hc
  rw [unpack_integer_eq ht rfl]
  fin_cases hc
  · exact if_pos (by decide)
  · exact (if_neg (by decide)).trans ((if_neg (by decide)).trans (if_neg (by decide)))
  · exact (if_neg (by decide)).trans (if_pos (by decide))

theorem unpack_float_raisesEach {t : TypeTag} (ht : typeClass t = .float) :
    RaisesEach [.badCursor, .overrun] (unpack t) := by
  intro c hc
  rw [unpack_float_eq ht rfl rfl]
  fin_cases hc
  · exact if_pos (by decide)
  · exact (if_neg (by decide)).trans (if_neg (by decide))

theorem getNext_integer_raisesEach {t : TypeTag} (ht : typeClass t ≠ .float) :
    RaisesEach [.overrun, .reservedCode, .endOfValues, .nbInactive] (getNext t) := by
  intro c hc
  rw [getNext_integer_eq ht c.witness_inv.stream_cursor rfl]
  fin_cases hc
  · exact (if_neg (by decide)).trans ((if_neg (by decide)).trans ((if_neg (by decide)).trans (if_neg (by decide))))
  · exact (if_neg (by decide)).trans ((if_neg (by decide)).trans (if_pos (by decide)))
  · exact (if_neg (by decide)).trans (if_pos (by decide))
  · exact if_pos (by decide)

theorem getNext_float_raisesEach {t : TypeTag} (ht : typeClass t = .float) :
    RaisesEach [.overrun, .endOfValues, .nbInactive] (getNext t) := by
  intro c hc
  rw [getNext_float_eq ht c.witness_inv.stream_cursor rfl rfl]
  fin_cases hc
  · exact (if_neg (by decide)).trans ((if_neg (by decide)).trans (if_neg (by decide)))
  · exact (if_neg (by decide)).trans (if_pos (by decide))
  · exact if_pos (by decide)

theorem endOfArguments_raisesEach : RaisesEach [.nbInactive] endOfArguments := by
  intro c hc
  rw [endOfArguments_eq]
  fin_cases hc
  exact if_pos (by decide)

theorem bodyOf_raisesEach : ∀ i : Instr, RaisesEach (mayRaise i) (bodyOf i)
  | .npmk | .npfst | .npsnd => raisesEach_nil _
  | .pkuU8 | .pkuU16 | .pkuU32 | .pkuU64 | .pksI32 | .pksI64 | .pkfF32 | .pkfF64 | .pkp => encoder_raisesEach rfl
  | .scan => scanSize_raisesEach
  | .upiU8 | .upiU16 | .upiU32 | .upiU64 | .upiI8 | .upiI16 | .upiI32 | .upiI64 | .upp =>
    unpack_integer_raisesEach (by decide)
  | .upfF32 | .upfF64 => unpack_float_raisesEach rfl
  | .nbnew => construct_raisesEach
  | .nbnxtU8 | .nbnxtU16 | .nbnxtU32 | .nbnxtU64 | .nbnxtI8 | .nbnxtI16 | .nbnxtI32 | .nbnxtI64 | .nbnxtPtr =>
    getNext_integer_raisesEach (by decide)
  | .nbnxtF32 | .nbnxtF64 => getNext_float_raisesEach rfl
  | .nbend => endOfArguments_raisesEach

/-- Settles O17: the witness of a cause is a state in which every command that lists it raises it. -/
theorem everyListedFaultCanBeRaised : Obligations.EveryListedFaultCanBeRaised := fun i c hc =>
  ⟨c.witness, c.witness_inv, c.witness_not_halted, exec_fault c.witness_not_halted (bodyOf_raisesEach i c hc)⟩

end Sys2Proof.Machine

/-! ## Reset (70_reset_and_hazards.md R240, 10_state.md R41)

What the Reset move writes and what it keeps, and what a status register that holds 0 says in its fields. The registers
that R240 leaves unspecified have no lemma here: `State.hostReset` draws them, and nothing is claimed of what they hold. -/

namespace Sys2Proof.Machine

/-! ### The fields of a status register that holds 0 (10_state.md R28, R29; 60_exceptions.md R218) -/

theorem State.fstatFields_of_fstat_zero {s : State} (h : s.fstat = 0) :
    s.fstatCause = 0 ∧ s.fstatCmd = 0 ∧ s.halted = false ∧ s.faultLine = false := by
  have hhalted : s.halted = false := by rw [State.halted, h]; rfl
  refine ⟨?_, ?_, hhalted, hhalted⟩
  · rw [State.fstatCause, h]
    rfl
  · rw [State.fstatCmd, h]
    rfl

theorem State.nbCtlFields_of_nbCtl_zero {s : State} (h : s.nbCtl = 0) : s.nbAct = false ∧ s.nbHalf = false := by
  constructor
  · rw [State.nbAct, h]
    rfl
  · rw [State.nbHalf, h]
    rfl

/-! ### What the Reset move writes and keeps (R240) -/

@[simp] theorem State.hostReset_fstat (s : State) : s.hostReset.fstat = 0 := rfl

@[simp] theorem State.hostReset_nbCtl (s : State) : s.hostReset.nbCtl = 0 := rfl

@[simp] theorem State.hostReset_mem (s : State) : s.hostReset.mem = s.mem := rfl

@[simp] theorem State.hostReset_script (s : State) : s.hostReset.script = s.script := rfl

/-- The step on a Reset move is `hostReset` with the move off the script, from a halted CORE too (R217). -/
theorem step_reset {s : State} {rest : List HostMove} (h : s.script = .reset :: rest) :
    step s = .next { s with script := rest }.hostReset := step_cons h

/-- Settles O10: FSTAT and NB_CTL hold 0 after the move, and so do all their fields. -/
theorem resetMoveClearsFaultAndCursor : Obligations.ResetMoveClearsFaultAndCursor := by
  intro s rest hscript
  have hfstat := State.hostReset_fstat { s with script := rest }
  have hnbCtl := State.hostReset_nbCtl { s with script := rest }
  obtain ⟨hcause, hcmd, hhalted, hline⟩ := State.fstatFields_of_fstat_zero hfstat
  obtain ⟨hact, hhalf⟩ := State.nbCtlFields_of_nbCtl_zero hnbCtl
  exact ⟨_, step_reset hscript, hfstat, hcause, hcmd, hnbCtl, hact, hhalf, hhalted, hline,
    State.hostReset_mem _, State.hostReset_script _⟩

end Sys2Proof.Machine
